-- ==== Sys2Proof/Word.lean ====
section
/-! DEFINITION. The bit widths of the UMach: bytes, words, register numbers and immediate fields
(00_scope.md R4, R6; 30_encoding.md R91, R92). -/

namespace Sys2Proof

/-- A byte: 8 bits (00_scope.md R4). The unit of memory and of an instruction's layout. -/
abbrev Byte := BitVec 8

/-- A word: 32 bits, the content of a register, an instruction, a memory word (00_scope.md R4, R6). -/
abbrev Word := BitVec 32

/-- A register number as an instruction byte carries it, 0 to 255 (30_encoding.md R92). -/
abbrev RegNum := BitVec 8

/-- The one-byte number of format RRN (30_encoding.md R98). -/
abbrev Imm8 := BitVec 8

/-- The two-byte number of format RNN (30_encoding.md R96). -/
abbrev Imm16 := BitVec 16

/-- The three-byte number of format NNN (30_encoding.md R94). -/
abbrev Imm24 := BitVec 24

end Sys2Proof
end

