-- ==== Sys2Proof/Syntax.lean ====
section
/-! DEFINITION. The instructions of the UMach: one constructor for each of the 66 rows of
spec/opcode_table.json, in the table's order (30_encoding.md R111). The operands are the bytes and
numeric fields of the instruction's format (R93 to R100): `x`, `y`, `z` are the register numbers in
bytes b2, b3, b4, and `n` is the numeric field. A register number is kept as the raw byte, because
its validity is no matter of decoding (R112); `WellFormed` and the meanings check it. -/

namespace Sys2Proof

/-- The instruction set. Each docstring gives the row's mnemonic, format and rule. IN and OUT have no
operands here because the spec gives them no format (47_system_io.md R256, R257). -/
inductive Instr where
  /-- NOP, format 000, opcode 0x00: 40_control.md R130. -/
  | nop
  /-- EOP, format 000, opcode 0x04: 40_control.md R131. -/
  | eop
  /-- SET, format RNN, opcode 0x10: 41_load_store.md R140. -/
  | set (x : RegNum) (n : Imm16)
  /-- CP, format RR0, opcode 0x11: 41_load_store.md R141. -/
  | cp (x y : RegNum)
  /-- LB, format RRR, opcode 0x12: 41_load_store.md R142. -/
  | lb (x y z : RegNum)
  /-- LW, format RRR, opcode 0x13: 41_load_store.md R143. -/
  | lw (x y z : RegNum)
  /-- SB, format RRR, opcode 0x14: 41_load_store.md R144. -/
  | sb (x y z : RegNum)
  /-- SW, format RRR, opcode 0x15: 41_load_store.md R145. -/
  | sw (x y z : RegNum)
  /-- PUSH, format R00, opcode 0x18: 41_load_store.md R146. -/
  | push (x : RegNum)
  /-- POP, format R00, opcode 0x19: 41_load_store.md R147. -/
  | pop (x : RegNum)
  /-- ADD, format RRR, opcode 0x30: 42_arithmetic.md R160. -/
  | add (x y z : RegNum)
  /-- ADDU, format RRR, opcode 0x31: 42_arithmetic.md R161. -/
  | addu (x y z : RegNum)
  /-- ADDI, format RRN, opcode 0x32: 42_arithmetic.md R162. -/
  | addi (x y : RegNum) (n : Imm8)
  /-- SUB, format RRR, opcode 0x33: 42_arithmetic.md R163. -/
  | sub (x y z : RegNum)
  /-- SUBU, format RRR, opcode 0x34: 42_arithmetic.md R164. -/
  | subu (x y z : RegNum)
  /-- SUBI, format RRN, opcode 0x35: 42_arithmetic.md R165. -/
  | subi (x y : RegNum) (n : Imm8)
  /-- MUL, format RR0, opcode 0x38: 42_arithmetic.md R166. -/
  | mul (x y : RegNum)
  /-- MULU, format RR0, opcode 0x39: 42_arithmetic.md R167. -/
  | mulu (x y : RegNum)
  /-- MULI, format RNN, opcode 0x3A: 42_arithmetic.md R168. -/
  | muli (x : RegNum) (n : Imm16)
  /-- DIV, format RR0, opcode 0x3B: 42_arithmetic.md R169. -/
  | div (x y : RegNum)
  /-- DIVU, format RR0, opcode 0x3C: 42_arithmetic.md R170. -/
  | divu (x y : RegNum)
  /-- DIVI, format RNN, opcode 0x3D: 42_arithmetic.md R171. -/
  | divi (x : RegNum) (n : Imm16)
  /-- ABS, format RR0, opcode 0x40: 42_arithmetic.md R172. -/
  | abs (x y : RegNum)
  /-- NEG, format RR0, opcode 0x41: 42_arithmetic.md R173. -/
  | neg (x y : RegNum)
  /-- INC, format R00, opcode 0x42: 42_arithmetic.md R174. -/
  | inc (x : RegNum)
  /-- DEC, format R00, opcode 0x43: 42_arithmetic.md R175. -/
  | dec (x : RegNum)
  /-- MOD, format RRR, opcode 0x48: 42_arithmetic.md R176. -/
  | mod (x y z : RegNum)
  /-- MODI, format RRN, opcode 0x49: 42_arithmetic.md R177. -/
  | modi (x y : RegNum) (n : Imm8)
  /-- AND, format RRR, opcode 0x50: 43_logic.md R190. -/
  | and (x y z : RegNum)
  /-- ANDI, format RRN, opcode 0x51: 43_logic.md R191. -/
  | andi (x y : RegNum) (n : Imm8)
  /-- OR, format RRR, opcode 0x52: 43_logic.md R192. -/
  | or (x y z : RegNum)
  /-- ORI, format RRN, opcode 0x53: 43_logic.md R193. -/
  | ori (x y : RegNum) (n : Imm8)
  /-- XOR, format RRR, opcode 0x54: 43_logic.md R194. -/
  | xor (x y z : RegNum)
  /-- XORI, format RRN, opcode 0x55: 43_logic.md R195. -/
  | xori (x y : RegNum) (n : Imm8)
  /-- NOT, format RR0, opcode 0x56: 43_logic.md R196. -/
  | not (x y : RegNum)
  /-- NOTI, format RNN, opcode 0x57: 43_logic.md R197. -/
  | noti (x : RegNum) (n : Imm16)
  /-- NAND, format RRR, opcode 0x58: 43_logic.md R198. -/
  | nand (x y z : RegNum)
  /-- NANDI, format RRN, opcode 0x59: 43_logic.md R199. -/
  | nandi (x y : RegNum) (n : Imm8)
  /-- NOR, format RRR, opcode 0x5A: 43_logic.md R200. -/
  | nor (x y z : RegNum)
  /-- NORI, format RRN, opcode 0x5B: 43_logic.md R201. -/
  | nori (x y : RegNum) (n : Imm8)
  /-- SHL, format RRR, opcode 0x60: 43_logic.md R202. -/
  | shl (x y z : RegNum)
  /-- SHLI, format RRN, opcode 0x61: 43_logic.md R203. -/
  | shli (x y : RegNum) (n : Imm8)
  /-- SHR, format RRR, opcode 0x62: 43_logic.md R204. -/
  | shr (x y z : RegNum)
  /-- SHRI, format RRN, opcode 0x63: 43_logic.md R205. -/
  | shri (x y : RegNum) (n : Imm8)
  /-- SHRA, format RRR, opcode 0x64: 43_logic.md R206. -/
  | shra (x y z : RegNum)
  /-- SHRAI, format RRN, opcode 0x65: 43_logic.md R207. -/
  | shrai (x y : RegNum) (n : Imm8)
  /-- ROTL, format RRR, opcode 0x68: 43_logic.md R208. -/
  | rotl (x y z : RegNum)
  /-- ROTLI, format RRN, opcode 0x69: 43_logic.md R209. -/
  | rotli (x y : RegNum) (n : Imm8)
  /-- ROTR, format RRR, opcode 0x6A: 43_logic.md R210. -/
  | rotr (x y z : RegNum)
  /-- ROTRI, format RRN, opcode 0x6B: 43_logic.md R211. -/
  | rotri (x y : RegNum) (n : Imm8)
  /-- CMP, format RR0, opcode 0x70: 44_compare.md R221. -/
  | cmp (x y : RegNum)
  /-- CMPU, format RR0, opcode 0x71: 44_compare.md R222. -/
  | cmpu (x y : RegNum)
  /-- CMPI, format RNN, opcode 0x72: 44_compare.md R223. -/
  | cmpi (x : RegNum) (n : Imm16)
  /-- BE, format NNN, opcode 0x80: 45_branch.md R231. -/
  | be (n : Imm24)
  /-- BNE, format NNN, opcode 0x81: 45_branch.md R232. -/
  | bne (n : Imm24)
  /-- BL, format NNN, opcode 0x82: 45_branch.md R233. -/
  | bl (n : Imm24)
  /-- BLE, format NNN, opcode 0x83: 45_branch.md R234. -/
  | ble (n : Imm24)
  /-- BG, format NNN, opcode 0x84: 45_branch.md R235. -/
  | bg (n : Imm24)
  /-- BGE, format NNN, opcode 0x85: 45_branch.md R236. -/
  | bge (n : Imm24)
  /-- JMP, format NNN, opcode 0x88: 45_branch.md R237. -/
  | jmp (n : Imm24)
  /-- GO, format R00, opcode 0x90: 46_subroutine.md R245. -/
  | go (x : RegNum)
  /-- CALL, format NNN, opcode 0x91: 46_subroutine.md R246. -/
  | call (n : Imm24)
  /-- RET, format 000, opcode 0x92: 46_subroutine.md R247. -/
  | ret
  /-- INT, format NNN, opcode 0xA0: 47_system_io.md R255. -/
  | int (n : Imm24)
  /-- IN, format unknown, opcode 0xB0: 47_system_io.md R256. -/
  | inp
  /-- OUT, format unknown, opcode 0xB1: 47_system_io.md R257. -/
  | out
deriving DecidableEq, Repr

end Sys2Proof
end

