-- ==== Sys2Proof/WellFormed.lean ====
section
/-! DEFINITION. Well-formed instructions: every byte in a register position names a register, that is,
lies in 0 to 41 (10_state.md R22, 30_encoding.md R92, 60_exceptions.md R276). -/

namespace Sys2Proof

/-- The byte names a register (10_state.md R22). -/
def RegNum.valid (n : RegNum) : Bool := decide (n.toNat ≤ 41)

/-- The register positions of an instruction, in the order b2, b3, b4 in which the decode step checks
them (60_exceptions.md R281). Unused bytes are no register positions (30_encoding.md R101). -/
def Instr.regs : Instr → List RegNum
  | .nop => []
  | .eop => []
  | .set x _ => [x]
  | .cp x y => [x, y]
  | .lb x y z => [x, y, z]
  | .lw x y z => [x, y, z]
  | .sb x y z => [x, y, z]
  | .sw x y z => [x, y, z]
  | .push x => [x]
  | .pop x => [x]
  | .add x y z => [x, y, z]
  | .addu x y z => [x, y, z]
  | .addi x y _ => [x, y]
  | .sub x y z => [x, y, z]
  | .subu x y z => [x, y, z]
  | .subi x y _ => [x, y]
  | .mul x y => [x, y]
  | .mulu x y => [x, y]
  | .muli x _ => [x]
  | .div x y => [x, y]
  | .divu x y => [x, y]
  | .divi x _ => [x]
  | .abs x y => [x, y]
  | .neg x y => [x, y]
  | .inc x => [x]
  | .dec x => [x]
  | .mod x y z => [x, y, z]
  | .modi x y _ => [x, y]
  | .and x y z => [x, y, z]
  | .andi x y _ => [x, y]
  | .or x y z => [x, y, z]
  | .ori x y _ => [x, y]
  | .xor x y z => [x, y, z]
  | .xori x y _ => [x, y]
  | .not x y => [x, y]
  | .noti x _ => [x]
  | .nand x y z => [x, y, z]
  | .nandi x y _ => [x, y]
  | .nor x y z => [x, y, z]
  | .nori x y _ => [x, y]
  | .shl x y z => [x, y, z]
  | .shli x y _ => [x, y]
  | .shr x y z => [x, y, z]
  | .shri x y _ => [x, y]
  | .shra x y z => [x, y, z]
  | .shrai x y _ => [x, y]
  | .rotl x y z => [x, y, z]
  | .rotli x y _ => [x, y]
  | .rotr x y z => [x, y, z]
  | .rotri x y _ => [x, y]
  | .cmp x y => [x, y]
  | .cmpu x y => [x, y]
  | .cmpi x _ => [x]
  | .be _ => []
  | .bne _ => []
  | .bl _ => []
  | .ble _ => []
  | .bg _ => []
  | .bge _ => []
  | .jmp _ => []
  | .go x => [x]
  | .call _ => []
  | .ret => []
  | .int _ => []
  | .inp => []
  | .out => []

/-- Every register position holds a register number. -/
def WellFormed (i : Instr) : Bool := i.regs.all RegNum.valid

end Sys2Proof
end

