-- ==== Sys2Proof/Decode.lean ====
section
/-! DEFINITION. Decoding and encoding (30_encoding.md). An instruction is four bytes, the first of them
the opcode; the opcode alone selects the instruction (R112), its format says how the other three
bytes are read (R93 to R100), and unused bytes are ignored (R101). -/

namespace Sys2Proof

/-- Why a word does not decode: its first byte is one of the 190 unassigned opcodes (R113). -/
inductive DecodeError where
  | illegalOpcode (op : Byte)
deriving DecidableEq, Repr

/-- Four bytes in memory order, read big-endian as one word (20_memory.md R65, R66). -/
def joinBytes (b1 b2 b3 b4 : Byte) : Word := b1 ++ b2 ++ b3 ++ b4

/-- The first byte of an instruction, its opcode (R91). -/
def byte1 (w : Word) : Byte := w.extractLsb' 24 8

/-- The second byte of an instruction (R91). -/
def byte2 (w : Word) : Byte := w.extractLsb' 16 8

/-- The third byte of an instruction (R91). -/
def byte3 (w : Word) : Byte := w.extractLsb' 8 8

/-- The fourth byte of an instruction (R91). -/
def byte4 (w : Word) : Byte := w.extractLsb' 0 8

/-- Two numeric bytes as one number, the earlier more significant (R92, format RNN). -/
def join16 (b3 b4 : Byte) : Imm16 := b3 ++ b4

/-- Three numeric bytes as one number, the earliest most significant (R92, format NNN). -/
def join24 (b2 b3 b4 : Byte) : Imm24 := b2 ++ b3 ++ b4

/-- The instruction an opcode byte names, its operands read from bytes b2, b3, b4 by the row's format
(R111, R112). -/
def decodeBytes (b1 b2 b3 b4 : Byte) : Except DecodeError Instr :=
  match b1 with
  | 0x00#8 => .ok .nop
  | 0x04#8 => .ok .eop
  | 0x10#8 => .ok (.set b2 (join16 b3 b4))
  | 0x11#8 => .ok (.cp b2 b3)
  | 0x12#8 => .ok (.lb b2 b3 b4)
  | 0x13#8 => .ok (.lw b2 b3 b4)
  | 0x14#8 => .ok (.sb b2 b3 b4)
  | 0x15#8 => .ok (.sw b2 b3 b4)
  | 0x18#8 => .ok (.push b2)
  | 0x19#8 => .ok (.pop b2)
  | 0x30#8 => .ok (.add b2 b3 b4)
  | 0x31#8 => .ok (.addu b2 b3 b4)
  | 0x32#8 => .ok (.addi b2 b3 b4)
  | 0x33#8 => .ok (.sub b2 b3 b4)
  | 0x34#8 => .ok (.subu b2 b3 b4)
  | 0x35#8 => .ok (.subi b2 b3 b4)
  | 0x38#8 => .ok (.mul b2 b3)
  | 0x39#8 => .ok (.mulu b2 b3)
  | 0x3A#8 => .ok (.muli b2 (join16 b3 b4))
  | 0x3B#8 => .ok (.div b2 b3)
  | 0x3C#8 => .ok (.divu b2 b3)
  | 0x3D#8 => .ok (.divi b2 (join16 b3 b4))
  | 0x40#8 => .ok (.abs b2 b3)
  | 0x41#8 => .ok (.neg b2 b3)
  | 0x42#8 => .ok (.inc b2)
  | 0x43#8 => .ok (.dec b2)
  | 0x48#8 => .ok (.mod b2 b3 b4)
  | 0x49#8 => .ok (.modi b2 b3 b4)
  | 0x50#8 => .ok (.and b2 b3 b4)
  | 0x51#8 => .ok (.andi b2 b3 b4)
  | 0x52#8 => .ok (.or b2 b3 b4)
  | 0x53#8 => .ok (.ori b2 b3 b4)
  | 0x54#8 => .ok (.xor b2 b3 b4)
  | 0x55#8 => .ok (.xori b2 b3 b4)
  | 0x56#8 => .ok (.not b2 b3)
  | 0x57#8 => .ok (.noti b2 (join16 b3 b4))
  | 0x58#8 => .ok (.nand b2 b3 b4)
  | 0x59#8 => .ok (.nandi b2 b3 b4)
  | 0x5A#8 => .ok (.nor b2 b3 b4)
  | 0x5B#8 => .ok (.nori b2 b3 b4)
  | 0x60#8 => .ok (.shl b2 b3 b4)
  | 0x61#8 => .ok (.shli b2 b3 b4)
  | 0x62#8 => .ok (.shr b2 b3 b4)
  | 0x63#8 => .ok (.shri b2 b3 b4)
  | 0x64#8 => .ok (.shra b2 b3 b4)
  | 0x65#8 => .ok (.shrai b2 b3 b4)
  | 0x68#8 => .ok (.rotl b2 b3 b4)
  | 0x69#8 => .ok (.rotli b2 b3 b4)
  | 0x6A#8 => .ok (.rotr b2 b3 b4)
  | 0x6B#8 => .ok (.rotri b2 b3 b4)
  | 0x70#8 => .ok (.cmp b2 b3)
  | 0x71#8 => .ok (.cmpu b2 b3)
  | 0x72#8 => .ok (.cmpi b2 (join16 b3 b4))
  | 0x80#8 => .ok (.be (join24 b2 b3 b4))
  | 0x81#8 => .ok (.bne (join24 b2 b3 b4))
  | 0x82#8 => .ok (.bl (join24 b2 b3 b4))
  | 0x83#8 => .ok (.ble (join24 b2 b3 b4))
  | 0x84#8 => .ok (.bg (join24 b2 b3 b4))
  | 0x85#8 => .ok (.bge (join24 b2 b3 b4))
  | 0x88#8 => .ok (.jmp (join24 b2 b3 b4))
  | 0x90#8 => .ok (.go b2)
  | 0x91#8 => .ok (.call (join24 b2 b3 b4))
  | 0x92#8 => .ok .ret
  | 0xA0#8 => .ok (.int (join24 b2 b3 b4))
  | 0xB0#8 => .ok .inp
  | 0xB1#8 => .ok .out
  | op => .error (.illegalOpcode op)

/-- Decode an instruction word (R112). -/
def decode (w : Word) : Except DecodeError Instr :=
  decodeBytes (byte1 w) (byte2 w) (byte3 w) (byte4 w)

/-- The opcode of an instruction (R111). -/
def Instr.opcode : Instr → Byte
  | .nop => 0x00#8
  | .eop => 0x04#8
  | .set _ _ => 0x10#8
  | .cp _ _ => 0x11#8
  | .lb _ _ _ => 0x12#8
  | .lw _ _ _ => 0x13#8
  | .sb _ _ _ => 0x14#8
  | .sw _ _ _ => 0x15#8
  | .push _ => 0x18#8
  | .pop _ => 0x19#8
  | .add _ _ _ => 0x30#8
  | .addu _ _ _ => 0x31#8
  | .addi _ _ _ => 0x32#8
  | .sub _ _ _ => 0x33#8
  | .subu _ _ _ => 0x34#8
  | .subi _ _ _ => 0x35#8
  | .mul _ _ => 0x38#8
  | .mulu _ _ => 0x39#8
  | .muli _ _ => 0x3A#8
  | .div _ _ => 0x3B#8
  | .divu _ _ => 0x3C#8
  | .divi _ _ => 0x3D#8
  | .abs _ _ => 0x40#8
  | .neg _ _ => 0x41#8
  | .inc _ => 0x42#8
  | .dec _ => 0x43#8
  | .mod _ _ _ => 0x48#8
  | .modi _ _ _ => 0x49#8
  | .and _ _ _ => 0x50#8
  | .andi _ _ _ => 0x51#8
  | .or _ _ _ => 0x52#8
  | .ori _ _ _ => 0x53#8
  | .xor _ _ _ => 0x54#8
  | .xori _ _ _ => 0x55#8
  | .not _ _ => 0x56#8
  | .noti _ _ => 0x57#8
  | .nand _ _ _ => 0x58#8
  | .nandi _ _ _ => 0x59#8
  | .nor _ _ _ => 0x5A#8
  | .nori _ _ _ => 0x5B#8
  | .shl _ _ _ => 0x60#8
  | .shli _ _ _ => 0x61#8
  | .shr _ _ _ => 0x62#8
  | .shri _ _ _ => 0x63#8
  | .shra _ _ _ => 0x64#8
  | .shrai _ _ _ => 0x65#8
  | .rotl _ _ _ => 0x68#8
  | .rotli _ _ _ => 0x69#8
  | .rotr _ _ _ => 0x6A#8
  | .rotri _ _ _ => 0x6B#8
  | .cmp _ _ => 0x70#8
  | .cmpu _ _ => 0x71#8
  | .cmpi _ _ => 0x72#8
  | .be _ => 0x80#8
  | .bne _ => 0x81#8
  | .bl _ => 0x82#8
  | .ble _ => 0x83#8
  | .bg _ => 0x84#8
  | .bge _ => 0x85#8
  | .jmp _ => 0x88#8
  | .go _ => 0x90#8
  | .call _ => 0x91#8
  | .ret => 0x92#8
  | .int _ => 0xA0#8
  | .inp => 0xB0#8
  | .out => 0xB1#8

/-- The operand bytes b2, b3, b4 of an instruction, unused bytes zero as R93 recommends. -/
def Instr.operands : Instr → Byte × Byte × Byte
  | .nop => (0, 0, 0)
  | .eop => (0, 0, 0)
  | .set x n => (x, n.extractLsb' 8 8, n.extractLsb' 0 8)
  | .cp x y => (x, y, 0)
  | .lb x y z => (x, y, z)
  | .lw x y z => (x, y, z)
  | .sb x y z => (x, y, z)
  | .sw x y z => (x, y, z)
  | .push x => (x, 0, 0)
  | .pop x => (x, 0, 0)
  | .add x y z => (x, y, z)
  | .addu x y z => (x, y, z)
  | .addi x y n => (x, y, n)
  | .sub x y z => (x, y, z)
  | .subu x y z => (x, y, z)
  | .subi x y n => (x, y, n)
  | .mul x y => (x, y, 0)
  | .mulu x y => (x, y, 0)
  | .muli x n => (x, n.extractLsb' 8 8, n.extractLsb' 0 8)
  | .div x y => (x, y, 0)
  | .divu x y => (x, y, 0)
  | .divi x n => (x, n.extractLsb' 8 8, n.extractLsb' 0 8)
  | .abs x y => (x, y, 0)
  | .neg x y => (x, y, 0)
  | .inc x => (x, 0, 0)
  | .dec x => (x, 0, 0)
  | .mod x y z => (x, y, z)
  | .modi x y n => (x, y, n)
  | .and x y z => (x, y, z)
  | .andi x y n => (x, y, n)
  | .or x y z => (x, y, z)
  | .ori x y n => (x, y, n)
  | .xor x y z => (x, y, z)
  | .xori x y n => (x, y, n)
  | .not x y => (x, y, 0)
  | .noti x n => (x, n.extractLsb' 8 8, n.extractLsb' 0 8)
  | .nand x y z => (x, y, z)
  | .nandi x y n => (x, y, n)
  | .nor x y z => (x, y, z)
  | .nori x y n => (x, y, n)
  | .shl x y z => (x, y, z)
  | .shli x y n => (x, y, n)
  | .shr x y z => (x, y, z)
  | .shri x y n => (x, y, n)
  | .shra x y z => (x, y, z)
  | .shrai x y n => (x, y, n)
  | .rotl x y z => (x, y, z)
  | .rotli x y n => (x, y, n)
  | .rotr x y z => (x, y, z)
  | .rotri x y n => (x, y, n)
  | .cmp x y => (x, y, 0)
  | .cmpu x y => (x, y, 0)
  | .cmpi x n => (x, n.extractLsb' 8 8, n.extractLsb' 0 8)
  | .be n => (n.extractLsb' 16 8, n.extractLsb' 8 8, n.extractLsb' 0 8)
  | .bne n => (n.extractLsb' 16 8, n.extractLsb' 8 8, n.extractLsb' 0 8)
  | .bl n => (n.extractLsb' 16 8, n.extractLsb' 8 8, n.extractLsb' 0 8)
  | .ble n => (n.extractLsb' 16 8, n.extractLsb' 8 8, n.extractLsb' 0 8)
  | .bg n => (n.extractLsb' 16 8, n.extractLsb' 8 8, n.extractLsb' 0 8)
  | .bge n => (n.extractLsb' 16 8, n.extractLsb' 8 8, n.extractLsb' 0 8)
  | .jmp n => (n.extractLsb' 16 8, n.extractLsb' 8 8, n.extractLsb' 0 8)
  | .go x => (x, 0, 0)
  | .call n => (n.extractLsb' 16 8, n.extractLsb' 8 8, n.extractLsb' 0 8)
  | .ret => (0, 0, 0)
  | .int n => (n.extractLsb' 16 8, n.extractLsb' 8 8, n.extractLsb' 0 8)
  | .inp => (0, 0, 0)
  | .out => (0, 0, 0)

/-- The word of an instruction (R100, R111). -/
def encode (i : Instr) : Word :=
  joinBytes i.opcode i.operands.1 i.operands.2.1 i.operands.2.2

/-- The bytes of an instruction as memory holds them, lowest address first (20_memory.md R65). -/
def layout (w : Word) : List Byte := [byte1 w, byte2 w, byte3 w, byte4 w]

/-- Decode four bytes in memory order; any other number of bytes is no instruction (R90). -/
def decodeLayout : List Byte → Option Instr
  | [b1, b2, b3, b4] => (decode (joinBytes b1 b2 b3 b4)).toOption
  | _ => none

/-- The instruction the decoder reads from the opcode table's bits `w` (host interface): the word is
laid out as memory holds it and decoded. -/
def decodeTableWord (nbits w : Nat) : Option Instr :=
  decodeLayout (layout (BitVec.ofNat 32 (w % 2 ^ nbits)))

end Sys2Proof
end

