-- ==== Sys2Proof/Config.lean ====
section
/-! DEFINITION. What the spec leaves to the implementation or the host before boot (00_scope.md R5,
60_exceptions.md R285): the parameters of a machine as plain data, and the free values as opaque
constants that nothing can evaluate. -/

namespace Sys2Proof

/-- The operating mode, chosen before boot (10_state.md R51). It changes when steps happen, never
what a step does. -/
inductive Mode where
  | normal
  | singleStep
deriving DecidableEq, Repr

/-- `WP_WRITE`: what an instruction's write to a write-protected register does besides leaving the
register unchanged (10_state.md R31, 60_exceptions.md R277). -/
inductive WpWrite where
  | ignore
  | error
  | fault
deriving DecidableEq, Repr

/-- `int_handler`: how the host serves INT (47_system_io.md R255). `absent` is a machine given no
handler, `identity` is the least handler, under which INT is a no-operation, and `system` is an
operating system about which nothing is known. -/
inductive IntHandler where
  | absent
  | identity
  | system
deriving DecidableEq, Repr

/-- The error kinds that set bits of ERR (60_exceptions.md R271; `Unimplemented` sets none). -/
inductive ErrorKind where
  | spRange
  | memRange
  | illegalOpcode
  | invalidRegister
  | writeProtected
  | divideByZero
deriving DecidableEq, Repr

/-- The parameters the host fixes before boot (00_scope.md R5, 60_exceptions.md R285). -/
structure Config where
  /-- `MEMSIZE`, the number of bytes of the memory (20_memory.md R60). -/
  memSize : Nat
  /-- `MODE` (10_state.md R51). -/
  mode : Mode
  /-- `WP_WRITE` (10_state.md R31). -/
  wpWrite : WpWrite
  /-- `STAT_WP`, whether STAT counts as write-protected (10_state.md R28). -/
  statWp : Bool
  /-- `int_handler` (47_system_io.md R255). -/
  intHandler : IntHandler
deriving DecidableEq, Repr

/-- `MAXADDR = MEMSIZE - 1`, the highest memory address (00_scope.md R5). -/
def Config.maxAddr (c : Config) : Nat := c.memSize - 1

/-- The bound the spec puts on `MEMSIZE` (20_memory.md R60). -/
def Config.legal (c : Config) : Bool := decide (4 ≤ c.memSize ∧ c.memSize ≤ 2147483648)

/-- DESIGN CHOICE, unsafe: the parameters of `State.reset` (log entry 1). -/
def Config.standard : Config where
  memSize := 256
  mode := .normal
  wpWrite := .fault
  statWp := false
  intHandler := .identity

/-- The value the k-th read of STAT returns: an unconstrained draw (10_state.md R28, log entry 2). -/
opaque Config.statDraw : Nat → Word

/-- The free choice behind `err_bits`: any of the 2^32 - 1 nonzero patterns, numbered from 0. -/
opaque Config.errSeed : ErrorKind → Fin 4294967295

/-- `err_bits(kind)`: the pattern ERR takes for an error kind, nonzero and otherwise unknown
(10_state.md R29, 60_exceptions.md R271, log entry 3). -/
def Config.errBits (k : ErrorKind) : Word := BitVec.ofNat 32 ((Config.errSeed k).val + 1)

end Sys2Proof
end

