-- ==== Sys2Proof/Machine/State.lean ====
section
/-! DEFINITION. The state of the UMach as plain data, how a step can stop, and the machine after boot
(10_state.md, 60_exceptions.md section 2, 70_reset_and_hazards.md section 1). -/

namespace Sys2Proof
namespace Machine

/-- The 42 registers (10_state.md R22): ZERO, the general registers (`gpr k` is R(k+1)), and the
special registers 33 to 41. -/
inductive Reg where
  | zero
  | gpr (k : Fin 32)
  | pc
  | sp
  | fp
  | ir
  | stat
  | err
  | hi
  | lo
  | cmpr
deriving DecidableEq, Repr

/-- The run state (10_state.md R50): `faulted` is a machine stopped by a fault (60_exceptions.md R272). -/
inductive RunState where
  | on
  | off
  | faulted
deriving DecidableEq, Repr

/-- Memory content: the bytes that differ from what an unlisted address reads as, addresses strictly
rising (20_memory.md R60, log entry 4). The canonical form is `Memory.wf` in Machine/Ops.lean. -/
abbrev Memory := List Host.Cell

/-- The whole state of the machine (10_state.md). -/
structure State where
  /-- R1 to R32, at indexes 0 to 31 (R21). -/
  gpr : Vector Word 32
  /-- PC, register 33 (R24). -/
  pc : Word
  /-- SP, register 34 (R25). -/
  sp : Word
  /-- FP, register 35 (R26). -/
  fp : Word
  /-- IR, register 36 (R27). -/
  ir : Word
  /-- STAT, register 37, as last written (R28); a read returns a draw instead. -/
  stat : Word
  /-- ERR, register 38 (R29). -/
  err : Word
  /-- HI, register 39 (R33). -/
  hi : Word
  /-- LO, register 40 (R34). -/
  lo : Word
  /-- CMPR, register 41 (R35). -/
  cmpr : Word
  /-- The memory content (R53, 20_memory.md R60). -/
  mem : Memory
  /-- The run state (R50). -/
  run : RunState
  /-- The parameters the host fixed before boot, MODE among them (R51, 60_exceptions.md R285). -/
  cfg : Config
  /-- The MODEL's own field: how many reads of STAT have been drawn so far (R28, log entry 2). -/
  statReads : Nat
deriving DecidableEq, Repr

/-- The faults (60_exceptions.md R271, R272). Each carries the machine as the fault leaves it: ERR
signalled, run state `faulted`, IR and PC as the cycle left them, all else as before the instruction.
Stopping is safe: nothing is concluded past a fault. -/
inductive Fault where
  /-- R274: raised by the fetch, LB, LW, SB, SW, PUSH and POP for an access of which a byte lies above
  `MAXADDR`; records the address. Safe. -/
  | memRange (addr : Nat) (stopped : State)
  /-- R275: raised by decode for an unassigned opcode; records it. Safe. -/
  | illegalOpcode (op : Byte) (stopped : State)
  /-- R276: raised by every instruction with a register position that holds 42 to 255; records the
  byte. Safe. -/
  | invalidRegister (n : RegNum) (stopped : State)
  /-- R277: raised, under `WP_WRITE = fault`, by a write to ZERO, PC or IR, or to STAT when `STAT_WP`;
  records the register. Safe. -/
  | writeProtected (r : Reg) (stopped : State)
  /-- R278: raised by DIV, DIVU, DIVI, MOD and MODI for a zero divisor. Safe. -/
  | divideByZero (stopped : State)
  /-- R272: raised by a step of a machine that a fault has stopped already; `faulted` has no successor
  (93_implementation_defined.md U26, log entry 10). Safe. -/
  | alreadyFaulted (stopped : State)
deriving DecidableEq, Repr

/-- The refusals: the model claims nothing about the machine (60_exceptions.md R272, R279). All safe. -/
inductive Refusal where
  /-- An arm of `exec` without a meaning; no arm uses it. Safe. -/
  | notModelled (mnemonic : String)
  /-- CALL, a name without a definition (46_subroutine.md R246). Safe. -/
  | callNotDefined
  /-- RET, a name without a definition (46_subroutine.md R247). Safe. -/
  | retNotDefined
  /-- IN, a name without a format or a meaning (47_system_io.md R256). Safe. -/
  | inNotDefined
  /-- OUT, a name without a format or a meaning (47_system_io.md R257). Safe. -/
  | outNotDefined
  /-- INT on a machine that was given no `int_handler` (47_system_io.md R255). Safe. -/
  | intNoHandler
deriving DecidableEq, Repr

/-- The outcome of a step or of an instruction. -/
abbrev Out := Host.Outcome State Fault Refusal

/-- What INT hands to the operating system besides the code: the registers and the memory, and nothing
else of the machine (47_system_io.md R255). ZERO, which is always 0, is left out. -/
structure HostCall where
  gpr : Vector Word 32
  pc : Word
  sp : Word
  fp : Word
  ir : Word
  /-- STAT as last written (log entry 5). -/
  stat : Word
  err : Word
  hi : Word
  lo : Word
  cmpr : Word
  /-- The number of bytes of the memory (20_memory.md R60). -/
  memSize : Nat
  /-- The content of the memory (20_memory.md R60). -/
  mem : Memory
deriving DecidableEq, Repr

/-- What an operating system's action leaves behind (47_system_io.md R255): new contents of the
registers it may change, bytes it stores, and whether it stops the machine. -/
structure HostAnswer where
  gpr : Vector Word 32
  sp : Word
  fp : Word
  stat : Word
  err : Word
  hi : Word
  lo : Word
  cmpr : Word
  stores : List Host.Cell
  stop : Bool
deriving DecidableEq, Repr, Inhabited

end Machine

/-- The action of an operating system about which nothing is known, for `IntHandler.system`: an
unconstrained function of the code, the registers and the memory (47_system_io.md R255, log entry 5). -/
opaque Config.osAction : Imm24 → Machine.HostCall → Machine.HostAnswer

namespace Machine

/-- What boot leaves unspecified (10_state.md R52): register contents and the memory, the program
`IMAGE` among it. -/
structure PowerOn where
  fp : Word
  ir : Word
  stat : Word
  hi : Word
  lo : Word
  cmpr : Word
  mem : Memory
deriving DecidableEq, Repr

/-- The machine after boot under parameters `c`, what boot leaves unspecified being `p` (R52). -/
def State.boot (c : Config) (p : PowerOn) : State where
  gpr := Vector.replicate 32 0
  pc := 0
  sp := BitVec.ofNat 32 c.maxAddr
  fp := p.fp
  ir := p.ir
  stat := p.stat
  err := 0
  hi := p.hi
  lo := p.lo
  cmpr := p.cmpr
  mem := p.mem
  run := .on
  cfg := c
  statReads := 0

/-- DESIGN CHOICE, unsafe: zero for every register boot leaves unspecified, and nothing listed in
memory (log entries 4 and 6). -/
def PowerOn.zeros : PowerOn where
  fp := 0
  ir := 0
  stat := 0
  hi := 0
  lo := 0
  cmpr := 0
  mem := []

/-- The machine right after boot (R52), under `Config.standard` (log entry 1). -/
def State.reset : State := State.boot Config.standard PowerOn.zeros

end Machine
end Sys2Proof
end

