-- ==== Sys2Proof/Machine/Ops.lean ====
section
/-! DEFINITION. The named operations over memory, registers and errors that every meaning is written
with (20_memory.md sections 2 and 3, 10_state.md section 3, 60_exceptions.md section 2). -/

namespace Sys2Proof.Machine

/-! ### Memory -/

/-- What an address that memory does not list reads as. DESIGN CHOICE, unsafe: the spec gives no
content for memory outside the program (20_memory.md R72, log entry 4). -/
def Memory.unlisted : Byte := 0

/-- `mem(a)`, one byte (20_memory.md R60). -/
def Memory.read : Memory → Nat → Byte
  | [], _ => Memory.unlisted
  | (k, v) :: rest, a => if k = a then v else Memory.read rest a

/-- `mem(a) <- b`, keeping the canonical form: addresses rising, no listed byte that an unlisted address
would read as anyway. -/
def Memory.write : Memory → Nat → Byte → Memory
  | [], a, b => if b = Memory.unlisted then [] else [(a, b)]
  | (k, v) :: rest, a, b =>
    if a < k then
      if b = Memory.unlisted then (k, v) :: rest else (a, b) :: (k, v) :: rest
    else if a = k then
      if b = Memory.unlisted then rest else (a, b) :: rest
    else (k, v) :: Memory.write rest a b

/-- Every listed address is at least `lo`, addresses rise strictly, and no listed byte is the one an
unlisted address reads as. -/
def Memory.wfFrom : Nat → Memory → Bool
  | _, [] => true
  | lo, (k, v) :: rest => decide (lo ≤ k) && decide (v ≠ Memory.unlisted) && Memory.wfFrom (k + 1) rest

/-- The canonical form of a memory. -/
def Memory.wf (m : Memory) : Bool := Memory.wfFrom 0 m

/-- Every listed address lies below `n`. -/
def Memory.below (n : Nat) (m : Memory) : Bool := m.all fun c => decide (c.1 < n)

/-- The four bytes from `a` as one word, big-endian (20_memory.md R65, R66). -/
def Memory.readWord (m : Memory) (a : Nat) : Word :=
  joinBytes (m.read a) (m.read (a + 1)) (m.read (a + 2)) (m.read (a + 3))

/-- Store a word at `a` to `a + 3`, most significant byte first (20_memory.md R65, R67). -/
def Memory.writeWord (m : Memory) (a : Nat) (v : Word) : Memory :=
  (((m.write a (byte1 v)).write (a + 1) (byte2 v)).write (a + 2) (byte3 v)).write (a + 3) (byte4 v)

/-- Store the bytes of a string at consecutive addresses from `a` (the program `IMAGE`, 20_memory.md R72). -/
def Memory.load (m : Memory) : Nat → List Byte → Memory
  | _, [] => m
  | a, b :: rest => Memory.load (m.write a b) (a + 1) rest

/-- An access of `n` bytes at the natural address `a` lies within memory (20_memory.md R66, R67). -/
def State.inMem (s : State) (a n : Nat) : Bool := decide (a + n ≤ s.cfg.memSize)

/-! ### Errors (60_exceptions.md R271, R272) -/

/-- What is raised, with the information the model's fault record keeps (R271). -/
inductive MachineError where
  | spRange (refused : Word)
  | memRange (addr : Nat)
  | illegalOpcode (op : Byte)
  | invalidRegister (n : RegNum)
  | writeProtected (r : Reg)
  | divideByZero
deriving DecidableEq, Repr

/-- Signal an error kind in ERR; bits already set stay set (10_state.md R29, R272 step 1). -/
def State.signal (s : State) (k : ErrorKind) : State := { s with err := s.err ||| Config.errBits k }

/-- The machine as a fault of kind `k` leaves it: ERR signalled, run state `faulted` (R272). -/
def State.faultedBy (s : State) (k : ErrorKind) : State := { s.signal k with run := .faulted }

/-- `raise`, the one error mechanism (R272): a signalled error goes on with the next instruction, a fault
stops the machine, and `WP_WRITE` decides which of them, or neither, `WriteProtected` is. -/
def raise (e : MachineError) (s : State) : Out :=
  match e with
  | .spRange _ => .next (s.signal .spRange)
  | .memRange a => .fault (.memRange a (s.faultedBy .memRange))
  | .illegalOpcode op => .fault (.illegalOpcode op (s.faultedBy .illegalOpcode))
  | .invalidRegister n => .fault (.invalidRegister n (s.faultedBy .invalidRegister))
  | .writeProtected r =>
    match s.cfg.wpWrite with
    | .ignore => .next s
    | .error => .next (s.signal .writeProtected)
    | .fault => .fault (.writeProtected r (s.faultedBy .writeProtected))
  | .divideByZero => .fault (.divideByZero (s.faultedBy .divideByZero))

/-- `raise Unimplemented`: the model stops and claims nothing (R272, R279). -/
def refuse (r : Refusal) : Out := .refused r

/-! ### Registers (10_state.md R30, R31) -/

/-- `x[r]` (R30). A read of STAT is the next draw (R28). -/
def readReg (s : State) : Reg → Word
  | .zero => 0
  | .gpr k => s.gpr.get k
  | .pc => s.pc
  | .sp => s.sp
  | .fp => s.fp
  | .ir => s.ir
  | .stat => Config.statDraw s.statReads
  | .err => s.err
  | .hi => s.hi
  | .lo => s.lo
  | .cmpr => s.cmpr

/-- The state after a read of `r`: a read of STAT uses up its draw, so that each read is fresh (R28); no
other read has a side effect. -/
def afterRead (s : State) (r : Reg) : State :=
  match r with
  | .stat => { s with statReads := s.statReads + 1 }
  | _ => s

/-- Register `r` holding `v`, for the registers an instruction may write; the others are left alone. -/
def setReg (s : State) (r : Reg) (v : Word) : State :=
  match r with
  | .gpr k => { s with gpr := s.gpr.set k v }
  | .sp => { s with sp := v }
  | .fp => { s with fp := v }
  | .stat => { s with stat := v }
  | .err => { s with err := v }
  | .hi => { s with hi := v }
  | .lo => { s with lo := v }
  | .cmpr => { s with cmpr := v }
  | .zero | .pc | .ir => s

/-- The register is write-protected against instructions: ZERO, PC and IR always, STAT when `STAT_WP`
(R22, R31). -/
def isProtected (s : State) : Reg → Bool
  | .zero | .pc | .ir => true
  | .stat => s.cfg.statWp
  | _ => false

/-- The value is one SP may take: at most `MAXADDR` (R25). -/
def spValid (s : State) (v : Word) : Bool := decide (v.toNat ≤ s.cfg.maxAddr)

/-- `x[r] <- v` (R31) as the last act of an instruction. `base` is the machine before the instruction's
effects and `done` the machine with its other effects: a write-protected write that faults and a
refused SP write leave `base` (60_exceptions.md R272, R273), a write-protected write that goes on leaves
`done` (R277). -/
def writeReg (base done : State) (r : Reg) (v : Word) : Out :=
  if isProtected base r then
    match base.cfg.wpWrite with
    | .fault => raise (.writeProtected r) base
    | _ => raise (.writeProtected r) done
  else if r = .sp ∧ spValid base v = false then raise (.spRange v) base
  else .next (setReg done r v)

/-- `x[r] <- v` where the write is the instruction's only effect. -/
def writeResult (s : State) (r : Reg) (v : Word) : Out := writeReg s s r v

/-! ### The fetch (10_state.md R40) -/

/-- The instruction word at PC. -/
def fetchWord (s : State) : Word := s.mem.readWord s.pc.toNat

/-- The state the executing instruction sees: IR holds it and PC is advanced by 4 (R40, R44). -/
def afterFetch (s : State) : State :=
  { s with ir := fetchWord s, pc := BitVec.ofNat 32 (s.pc.toNat + 4) }

/-! ### The host's actions between instructions (60_exceptions.md R286, R288) -/

/-- The host's step signal of the single-step mode: it changes no state (R286). -/
def State.stepSignal (s : State) : State := s

/-- The host switches the machine off (R286, R288); no step does this (log entry 13). -/
def State.switchOff (s : State) : State := { s with run := .off }

/-- The machine booted with the program `image` at address 0 upward (20_memory.md R72, 60_exceptions.md R285).
DESIGN CHOICE: an image longer than memory, a host error outside the spec's model (70_reset_and_hazards.md R304), is
placed all the same, its bytes past `MAXADDR` out of every instruction's reach (log entry 19). -/
def State.bootImage (c : Config) (p : PowerOn) (image : List Byte) : State :=
  State.boot c { p with mem := p.mem.load 0 image }

/-- The bytes of `cells` that lie inside a memory of `n` bytes, stored in order. -/
def Memory.storeCells (n : Nat) (m : Memory) : List Host.Cell → Memory
  | [] => m
  | (a, b) :: rest => Memory.storeCells n (if a < n then m.write a b else m) rest

/-- What INT hands to the operating system: the registers and the memory, and neither the operating mode nor
another parameter (47_system_io.md R255, 10_state.md R51). -/
def State.hostCall (s : State) : HostCall where
  gpr := s.gpr
  pc := s.pc
  sp := s.sp
  fp := s.fp
  ir := s.ir
  stat := s.stat
  err := s.err
  hi := s.hi
  lo := s.lo
  cmpr := s.cmpr
  memSize := s.cfg.memSize
  mem := s.mem

/-- The machine after the operating system served INT (47_system_io.md R255, log entry 5): PC and IR stay as
the cycle left them, SP keeps its range, bytes outside memory are not stored. -/
def State.served (s : State) (h : HostAnswer) : State :=
  { s with
    gpr := h.gpr
    sp := if spValid s h.sp then h.sp else s.sp
    fp := h.fp
    stat := h.stat
    err := h.err
    hi := h.hi
    lo := h.lo
    cmpr := h.cmpr
    mem := s.mem.storeCells s.cfg.memSize h.stores
    run := if h.stop then .off else s.run }

end Sys2Proof.Machine
end

