-- ==== Sys2Proof/Machine/Operands.lean ====
section
/-! DEFINITION. Operands: register bytes (10_state.md R22), immediates (30_encoding.md R102 to R108), the
effective address (20_memory.md R64), and the operand forms the meanings share. -/

namespace Sys2Proof.Machine

/-- The register a register number names (10_state.md R22); 42 to 255 name none. -/
def regOf (n : RegNum) : Option Reg :=
  match n.toNat with
  | 0 => some .zero
  | 33 => some .pc
  | 34 => some .sp
  | 35 => some .fp
  | 36 => some .ir
  | 37 => some .stat
  | 38 => some .err
  | 39 => some .hi
  | 40 => some .lo
  | 41 => some .cmpr
  | k => if h : k - 1 < 32 then some (.gpr ⟨k - 1, h⟩) else none

/-- Go on with the register a register byte names; a byte that names none faults before any operand is
read or written (60_exceptions.md R276). -/
def withReg (s : State) (n : RegNum) (go : Reg → Out) : Out :=
  match regOf n with
  | some r => go r
  | none => raise (.invalidRegister n) s

/-- Two register bytes, checked in order (60_exceptions.md R281). -/
def withRegs2 (s : State) (x y : RegNum) (go : Reg → Reg → Out) : Out :=
  withReg s x fun rx => withReg s y fun ry => go rx ry

/-- Three register bytes, checked in order (60_exceptions.md R281). -/
def withRegs3 (s : State) (x y z : RegNum) (go : Reg → Reg → Reg → Out) : Out :=
  withReg s x fun rx => withReg s y fun ry => withReg s z fun rz => go rx ry rz

/-! ### Immediates -/

/-- The operand of SET, MULI, DIVI, CMPI (30_encoding.md R103). -/
def simm16 (n : Imm16) : Word := n.signExtend 32

/-- The operand of NOTI (30_encoding.md R104). -/
def uimm16 (n : Imm16) : Word := n.zeroExtend 32

/-- The operand of ADDI, SUBI (30_encoding.md R105). -/
def simm8 (n : Imm8) : Word := n.signExtend 32

/-- The operand of MODI and of the logic, shift and rotate immediates (30_encoding.md R106). -/
def uimm8 (n : Imm8) : Word := n.zeroExtend 32

/-- The offset of the conditional branches, in instructions (30_encoding.md R107). -/
def branchOffset (n : Imm24) : Int := n.toInt

/-- The offset of JMP, in instructions (30_encoding.md R108). -/
def jumpOffset (n : Imm24) : Int := n.toNat

/-! ### Values of several operands, read in order -/

/-- The content of the second of two registers read in order (log entry 12). -/
def readSecond (s : State) (r1 r2 : Reg) : Word := readReg (afterRead s r1) r2

/-- The state after two registers were read in order. -/
def afterReads (s : State) (r1 r2 : Reg) : State := afterRead (afterRead s r1) r2

/-- The effective address: the sum of base and index as natural numbers, not reduced (20_memory.md R64). -/
def effAddr (s : State) (base index : Reg) : Nat :=
  (readReg s base).toNat + (readSecond s base index).toNat

/-! ### The operand forms of the register instructions -/

/-- `x[X] <- f(x[Y], x[Z])`, format RRR. -/
def formRRR (f : Word → Word → Word) (x y z : RegNum) (s : State) : Out :=
  withRegs3 s x y z fun rx ry rz =>
    writeResult (afterReads s ry rz) rx (f (readReg s ry) (readSecond s ry rz))

/-- `x[X] <- f(x[Y])`, formats RR0 and RRN. -/
def formRR (f : Word → Word) (x y : RegNum) (s : State) : Out :=
  withRegs2 s x y fun rx ry => writeResult (afterRead s ry) rx (f (readReg s ry))

/-- `x[X] <- v`, format RNN. -/
def formRN (v : Word) (x : RegNum) (s : State) : Out :=
  withReg s x fun rx => writeResult s rx v

/-- `x[X] <- f(x[X])`, format R00. -/
def formR (f : Word → Word) (x : RegNum) (s : State) : Out :=
  withReg s x fun rx => writeResult (afterRead s rx) rx (f (readReg s rx))

/-- HI and LO written by the machine itself (10_state.md R32). -/
def setHiLo (s : State) (v : Word × Word) : State := { s with hi := v.1, lo := v.2 }

/-- `(HI, LO) <- f(x[X], x[Y])`, format RR0; `none` is a zero divisor (60_exceptions.md R278). -/
def formHiLo (f : Word → Word → Option (Word × Word)) (x y : RegNum) (s : State) : Out :=
  withRegs2 s x y fun rx ry =>
    match f (readReg s rx) (readSecond s rx ry) with
    | some v => .next (setHiLo (afterReads s rx ry) v)
    | none => raise .divideByZero s

/-- `(HI, LO) <- f(x[X])`, format RNN; `none` is a zero divisor (60_exceptions.md R278). -/
def formHiLoImm (f : Word → Option (Word × Word)) (x : RegNum) (s : State) : Out :=
  withReg s x fun rx =>
    match f (readReg s rx) with
    | some v => .next (setHiLo (afterRead s rx) v)
    | none => raise .divideByZero s

end Sys2Proof.Machine
end

