-- ==== Sys2Proof/Machine/Arithmetic.lean ====
section
/-! DEFINITION. Arithmetic instructions (42_arithmetic.md). Results are exact integers narrowed to 32 bits;
no flag is set (R178). -/

namespace Sys2Proof.Machine

/-! ### The results -/

/-- Signed sum modulo 2^32 (42_arithmetic.md R160, R178). -/
def addSigned (a b : Word) : Word := BitVec.ofInt 32 (a.toInt + b.toInt)

/-- Unsigned sum modulo 2^32 (42_arithmetic.md R161, R178). -/
def addUnsigned (a b : Word) : Word := BitVec.ofNat 32 (a.toNat + b.toNat)

/-- Signed difference modulo 2^32 (42_arithmetic.md R163, R178). -/
def subSigned (a b : Word) : Word := BitVec.ofInt 32 (a.toInt - b.toInt)

/-- Unsigned difference modulo 2^32 (42_arithmetic.md R164, R178). -/
def subUnsigned (a b : Word) : Word := BitVec.ofInt 32 ((a.toNat : Int) - (b.toNat : Int))

/-- HI and LO of a 64-bit product: the integer division rounds down (42_arithmetic.md R179). -/
def splitProduct (p : Int) : Word × Word := (BitVec.ofInt 32 (p / 4294967296), BitVec.ofInt 32 p)

/-- Signed product (42_arithmetic.md R166, R179). -/
def mulSigned (a b : Word) : Word × Word := splitProduct (a.toInt * b.toInt)

/-- Unsigned product (42_arithmetic.md R167, R179). -/
def mulUnsigned (a b : Word) : Word × Word := splitProduct ((a.toNat : Int) * (b.toNat : Int))

/-- Signed quotient, rounded toward zero, and remainder (42_arithmetic.md R169, R179); none for divisor 0. -/
def divSigned (n d : Word) : Option (Word × Word) :=
  if d.toInt = 0 then none
  else
    let q := n.toInt.tdiv d.toInt
    some (BitVec.ofInt 32 q, BitVec.ofInt 32 (n.toInt - q * d.toInt))

/-- Unsigned quotient and remainder (42_arithmetic.md R170, R179); none for divisor 0. -/
def divUnsigned (n d : Word) : Option (Word × Word) :=
  if d.toNat = 0 then none
  else some (BitVec.ofNat 32 (n.toNat / d.toNat), BitVec.ofNat 32 (n.toNat % d.toNat))

/-- Negation modulo 2^32 (42_arithmetic.md R173). -/
def negSigned (a : Word) : Word := BitVec.ofInt 32 (-a.toInt)

/-- Absolute value modulo 2^32 (42_arithmetic.md R172). -/
def absSigned (a : Word) : Word := if 0 ≤ a.toInt then a else negSigned a

/-- `(HI, LO) <- DIVU; x[X] <- LO` (42_arithmetic.md R176). A refused or faulting write of X leaves HI and LO as
they were (60_exceptions.md R272, R273, log entry 9). -/
def writeModulo (entry s : State) (rx : Reg) (n d : Word) : Out :=
  match divUnsigned n d with
  | some v => writeReg s (setHiLo s v) rx v.2
  | none => raise .divideByZero entry

/-! ### The instructions -/

/-- ADD X Y Z (42_arithmetic.md R160). -/
def execAdd (x y z : RegNum) (s : State) : Out := formRRR addSigned x y z s

/-- ADDU X Y Z (42_arithmetic.md R161). -/
def execAddu (x y z : RegNum) (s : State) : Out := formRRR addUnsigned x y z s

/-- ADDI X Y N (42_arithmetic.md R162). -/
def execAddi (x y : RegNum) (n : Imm8) (s : State) : Out := formRR (addSigned · (simm8 n)) x y s

/-- SUB X Y Z (42_arithmetic.md R163). -/
def execSub (x y z : RegNum) (s : State) : Out := formRRR subSigned x y z s

/-- SUBU X Y Z (42_arithmetic.md R164). -/
def execSubu (x y z : RegNum) (s : State) : Out := formRRR subUnsigned x y z s

/-- SUBI X Y N (42_arithmetic.md R165). -/
def execSubi (x y : RegNum) (n : Imm8) (s : State) : Out := formRR (subSigned · (simm8 n)) x y s

/-- MUL X Y (42_arithmetic.md R166). -/
def execMul (x y : RegNum) (s : State) : Out := formHiLo (fun a b => some (mulSigned a b)) x y s

/-- MULU X Y (42_arithmetic.md R167). -/
def execMulu (x y : RegNum) (s : State) : Out := formHiLo (fun a b => some (mulUnsigned a b)) x y s

/-- MULI X N (42_arithmetic.md R168). -/
def execMuli (x : RegNum) (n : Imm16) (s : State) : Out :=
  formHiLoImm (fun a => some (mulSigned a (simm16 n))) x s

/-- DIV X Y (42_arithmetic.md R169). -/
def execDiv (x y : RegNum) (s : State) : Out := formHiLo divSigned x y s

/-- DIVU X Y (42_arithmetic.md R170). -/
def execDivu (x y : RegNum) (s : State) : Out := formHiLo divUnsigned x y s

/-- DIVI X N (42_arithmetic.md R171). -/
def execDivi (x : RegNum) (n : Imm16) (s : State) : Out :=
  formHiLoImm (fun a => divSigned a (simm16 n)) x s

/-- ABS X Y (42_arithmetic.md R172). DESIGN CHOICE: Y is read once, for the test and for the value, so ABS of STAT
makes one draw (log entry 17). -/
def execAbs (x y : RegNum) (s : State) : Out := formRR absSigned x y s

/-- NEG X Y (42_arithmetic.md R173). -/
def execNeg (x y : RegNum) (s : State) : Out := formRR negSigned x y s

/-- INC X (42_arithmetic.md R174). -/
def execInc (x : RegNum) (s : State) : Out := formR (addUnsigned · 1) x s

/-- DEC X (42_arithmetic.md R175). -/
def execDec (x : RegNum) (s : State) : Out := formR (subUnsigned · 1) x s

/-- MOD X Y Z (42_arithmetic.md R176). -/
def execMod (x y z : RegNum) (s : State) : Out :=
  withRegs3 s x y z fun rx ry rz =>
    writeModulo s (afterReads s ry rz) rx (readReg s ry) (readSecond s ry rz)

/-- MODI X Y N (42_arithmetic.md R177). -/
def execModi (x y : RegNum) (n : Imm8) (s : State) : Out :=
  withRegs2 s x y fun rx ry => writeModulo s (afterRead s ry) rx (readReg s ry) (uimm8 n)

end Sys2Proof.Machine
end

