-- ==== Sys2Proof/Machine/Flags.lean ====
section
/-! DEFINITION. The machine's only condition state is CMPR (10_state.md R45): what a comparison puts
there (44_compare.md R220), what the branches test (45_branch.md R238), and where they go (R230). No
arithmetic or logic instruction computes a flag. -/

namespace Sys2Proof.Machine

/-- `cmp(x, y)`: -1, 0 or +1 as a word (44_compare.md R220). -/
def cmpResult (x y : Int) : Word :=
  if x < y then 0xFFFFFFFF else if x = y then 0 else 1

/-- CMPR written by the machine itself (10_state.md R32). -/
def setCmpr (s : State) (v : Word) : State := { s with cmpr := v }

/-- The target of a relative branch taken with `n` instructions to skip, PC being already advanced
(45_branch.md R230). -/
def branchTarget (pc : Word) (n : Int) : Word := BitVec.ofInt 32 (pc.toNat + 4 * n)

/-- PC written by the machine itself (10_state.md R32). -/
def setPc (s : State) (v : Word) : State := { s with pc := v }

/-- Branch by `n` instructions if the condition holds, else fall through (45_branch.md R230). -/
def branchIf (cond : Bool) (n : Int) (s : State) : Out :=
  if cond then .next (setPc s (branchTarget s.pc n)) else .next s

/-- The condition of BE on CMPR (45_branch.md R231). -/
def condEq (c : Word) : Bool := decide (c.toInt = 0)

/-- The condition of BNE on CMPR (45_branch.md R232). -/
def condNe (c : Word) : Bool := decide (c.toInt ≠ 0)

/-- The condition of BL on CMPR (45_branch.md R233). -/
def condLt (c : Word) : Bool := decide (c.toInt < 0)

/-- The condition of BLE on CMPR (45_branch.md R234). -/
def condLe (c : Word) : Bool := decide (c.toInt ≤ 0)

/-- The condition of BG on CMPR (45_branch.md R235). -/
def condGt (c : Word) : Bool := decide (0 < c.toInt)

/-- The condition of BGE on CMPR (45_branch.md R236). -/
def condGe (c : Word) : Bool := decide (0 ≤ c.toInt)

end Sys2Proof.Machine
end

