-- ==== Sys2Proof/Machine/Branch.lean ====
section
/-! DEFINITION. Branch instructions (45_branch.md): relative to the already advanced PC (R230). -/

namespace Sys2Proof.Machine

/-- BE N (45_branch.md R231). -/
def execBe (n : Imm24) (s : State) : Out := branchIf (condEq s.cmpr) (branchOffset n) s

/-- BNE N (45_branch.md R232). -/
def execBne (n : Imm24) (s : State) : Out := branchIf (condNe s.cmpr) (branchOffset n) s

/-- BL N (45_branch.md R233). -/
def execBl (n : Imm24) (s : State) : Out := branchIf (condLt s.cmpr) (branchOffset n) s

/-- BLE N (45_branch.md R234). -/
def execBle (n : Imm24) (s : State) : Out := branchIf (condLe s.cmpr) (branchOffset n) s

/-- BG N (45_branch.md R235). -/
def execBg (n : Imm24) (s : State) : Out := branchIf (condGt s.cmpr) (branchOffset n) s

/-- BGE N (45_branch.md R236). -/
def execBge (n : Imm24) (s : State) : Out := branchIf (condGe s.cmpr) (branchOffset n) s

/-- JMP N, forward only (45_branch.md R237). -/
def execJmp (n : Imm24) (s : State) : Out := branchIf true (jumpOffset n) s

end Sys2Proof.Machine
end

