-- ==== Sys2Proof/Machine/Compare.lean ====
section
/-! DEFINITION. Compare instructions (44_compare.md): CMPR is their only destination (R220). -/

namespace Sys2Proof.Machine

/-- CMP X Y, signed (44_compare.md R221). -/
def execCmp (x y : RegNum) (s : State) : Out :=
  withRegs2 s x y fun rx ry =>
    .next (setCmpr (afterReads s rx ry) (cmpResult (readReg s rx).toInt (readSecond s rx ry).toInt))

/-- CMPU X Y, unsigned (44_compare.md R222). -/
def execCmpu (x y : RegNum) (s : State) : Out :=
  withRegs2 s x y fun rx ry =>
    .next (setCmpr (afterReads s rx ry) (cmpResult (readReg s rx).toNat (readSecond s rx ry).toNat))

/-- CMPI X N, signed (44_compare.md R223). -/
def execCmpi (x : RegNum) (n : Imm16) (s : State) : Out :=
  withReg s x fun rx =>
    .next (setCmpr (afterRead s rx) (cmpResult (readReg s rx).toInt (simm16 n).toInt))

end Sys2Proof.Machine
end

