-- ==== Sys2Proof/Machine/Control.lean ====
section
/-! DEFINITION. Control instructions (40_control.md). Every meaning runs after the cycle loaded IR and
advanced PC by 4 (10_state.md R40). -/

namespace Sys2Proof.Machine

/-- NOP does nothing (40_control.md R130). -/
def execNop (s : State) : Out := .next s

/-- EOP switches the machine off (40_control.md R131). -/
def execEop (s : State) : Out := .next { s with run := .off }

end Sys2Proof.Machine
end

