-- ==== Sys2Proof/Machine/LoadStore.lean ====
section
/-! DEFINITION. Load and store instructions (41_load_store.md). -/

namespace Sys2Proof.Machine

/-- SET X N (41_load_store.md R140). -/
def execSet (x : RegNum) (n : Imm16) (s : State) : Out := formRN (simm16 n) x s

/-- CP X Y (41_load_store.md R141). -/
def execCp (x y : RegNum) (s : State) : Out := formRR id x y s

/-- The loaded byte in the low byte of the old content, the other three bytes kept (41_load_store.md R142). -/
def mergeLowByte (old : Word) (b : Byte) : Word := (old &&& 0xFFFFFF00) ||| b.zeroExtend 32

/-- LB X Y Z (41_load_store.md R142). X is read after the memory was. -/
def execLb (x y z : RegNum) (s : State) : Out :=
  withRegs3 s x y z fun rx ry rz =>
    let a := effAddr s ry rz
    let s' := afterReads s ry rz
    if s.inMem a 1 then
      writeResult (afterRead s' rx) rx (mergeLowByte (readReg s' rx) (s.mem.read a))
    else raise (.memRange a) s

/-- LW X Y Z (41_load_store.md R143). -/
def execLw (x y z : RegNum) (s : State) : Out :=
  withRegs3 s x y z fun rx ry rz =>
    let a := effAddr s ry rz
    if s.inMem a 4 then writeResult (afterReads s ry rz) rx (s.mem.readWord a)
    else raise (.memRange a) s

/-- SB X Y Z (41_load_store.md R144). -/
def execSb (x y z : RegNum) (s : State) : Out :=
  withRegs3 s x y z fun rx ry rz =>
    let a := effAddr s ry rz
    let s' := afterReads s ry rz
    if s.inMem a 1 then
      .next { afterRead s' rx with mem := s.mem.write a (byte4 (readReg s' rx)) }
    else raise (.memRange a) s

/-- SW X Y Z (41_load_store.md R145). -/
def execSw (x y z : RegNum) (s : State) : Out :=
  withRegs3 s x y z fun rx ry rz =>
    let a := effAddr s ry rz
    let s' := afterReads s ry rz
    if s.inMem a 4 then
      .next { afterRead s' rx with mem := s.mem.writeWord a (readReg s' rx) }
    else raise (.memRange a) s

/-- The decremented SP of PUSH, where the word is stored (41_load_store.md R146). -/
def pushSp (s : State) : Word := BitVec.ofInt 32 ((s.sp.toNat : Int) - 4)

/-- PUSH X (41_load_store.md R146): SP first, then X is read and stored at the new SP. That
MemRange cannot occur where SP is at most MAXADDR follows (log entry 15). -/
def execPush (x : RegNum) (s : State) : Out :=
  withReg s x fun rx =>
    let s' := { s with sp := pushSp s }
    if s.sp.toNat < 4 ∨ spValid s (pushSp s) = false then raise (.spRange (pushSp s)) s
    else if s.inMem (pushSp s).toNat 4 then
      .next { afterRead s' rx with mem := s.mem.writeWord (pushSp s).toNat (readReg s' rx) }
    else raise (.memRange (pushSp s).toNat) s

/-- The incremented SP of POP, from the value SP holds then (41_load_store.md R147). -/
def popSp (v : Word) : Word := BitVec.ofNat 32 (v.toNat + 4)

/-- The two writes of POP, first X and then SP (41_load_store.md R147); `v` is the loaded word. Where X is SP
both writes are range checked, and a refused one leaves the instruction no effect (log entry 8). -/
def popWrites (s : State) (rx : Reg) (v : Word) : Out :=
  if rx = .sp then
    if spValid s v = false then raise (.spRange v) s
    else if spValid s (popSp v) = false then raise (.spRange (popSp v)) s
    else .next { s with sp := popSp v }
  else writeReg s { s with sp := popSp s.sp } rx v

/-- POP X (41_load_store.md R147): the read comes first and its fault before the SP check (60_exceptions.md R281).
DEDUCED: the SP check comes before the write of X, so a write-protected X does not fault where the increment of SP
is refused (log entry 18). -/
def execPop (x : RegNum) (s : State) : Out :=
  withReg s x fun rx =>
    let a := s.sp.toNat
    if s.inMem a 4 then
      if s.cfg.maxAddr < a + 4 then raise (.spRange (popSp s.sp)) s
      else popWrites s rx (s.mem.readWord a)
    else raise (.memRange a) s

end Sys2Proof.Machine
end

