-- ==== Sys2Proof/Machine/Logic.lean ====
section
/-! DEFINITION. Logic, shift and rotate instructions (43_logic.md). -/

namespace Sys2Proof.Machine

/-! ### The results -/

/-- Bitwise nand (43_logic.md R198). -/
def nandWord (a b : Word) : Word := ~~~(a &&& b)

/-- Bitwise nor (43_logic.md R200). -/
def norWord (a b : Word) : Word := ~~~(a ||| b)

/-- Shift left by an amount that is not reduced: 0 from 32 on (43_logic.md R202, R213). -/
def shiftLeft (a : Word) (k : Nat) : Word := if k < 32 then a <<< k else 0

/-- Logical shift right by an amount that is not reduced: 0 from 32 on (43_logic.md R204, R213). -/
def shiftRight (a : Word) (k : Nat) : Word := if k < 32 then a >>> k else 0

/-- Arithmetic shift right by an amount that is not reduced: copies of bit 31 from 31 on (43_logic.md R206, R213). -/
def shiftRightArith (a : Word) (k : Nat) : Word := a.sshiftRight (min k 31)

/-- Rotate left by an amount taken modulo 32 (43_logic.md R208, R213). -/
def rotLeft (a : Word) (k : Nat) : Word := (a <<< (k % 32)) ||| (a >>> (32 - k % 32))

/-- Rotate right by an amount taken modulo 32 (43_logic.md R210, R213). -/
def rotRight (a : Word) (k : Nat) : Word := (a >>> (k % 32)) ||| (a <<< (32 - k % 32))

/-! ### The instructions -/

/-- AND X Y Z (43_logic.md R190). -/
def execAnd (x y z : RegNum) (s : State) : Out := formRRR (· &&& ·) x y z s

/-- ANDI X Y N (43_logic.md R191). -/
def execAndi (x y : RegNum) (n : Imm8) (s : State) : Out := formRR (· &&& uimm8 n) x y s

/-- OR X Y Z (43_logic.md R192). -/
def execOr (x y z : RegNum) (s : State) : Out := formRRR (· ||| ·) x y z s

/-- ORI X Y N (43_logic.md R193). -/
def execOri (x y : RegNum) (n : Imm8) (s : State) : Out := formRR (· ||| uimm8 n) x y s

/-- XOR X Y Z (43_logic.md R194). -/
def execXor (x y z : RegNum) (s : State) : Out := formRRR (· ^^^ ·) x y z s

/-- XORI X Y N (43_logic.md R195). -/
def execXori (x y : RegNum) (n : Imm8) (s : State) : Out := formRR (· ^^^ uimm8 n) x y s

/-- NOT X Y (43_logic.md R196). -/
def execNot (x y : RegNum) (s : State) : Out := formRR (~~~ ·) x y s

/-- NOTI X N (43_logic.md R197). -/
def execNoti (x : RegNum) (n : Imm16) (s : State) : Out := formRN (~~~ (uimm16 n)) x s

/-- NAND X Y Z (43_logic.md R198). -/
def execNand (x y z : RegNum) (s : State) : Out := formRRR nandWord x y z s

/-- NANDI X Y N (43_logic.md R199). -/
def execNandi (x y : RegNum) (n : Imm8) (s : State) : Out := formRR (nandWord · (uimm8 n)) x y s

/-- NOR X Y Z (43_logic.md R200). -/
def execNor (x y z : RegNum) (s : State) : Out := formRRR norWord x y z s

/-- NORI X Y N (43_logic.md R201). -/
def execNori (x y : RegNum) (n : Imm8) (s : State) : Out := formRR (norWord · (uimm8 n)) x y s

/-- SHL X Y Z (43_logic.md R202). -/
def execShl (x y z : RegNum) (s : State) : Out := formRRR (fun a b => shiftLeft a b.toNat) x y z s

/-- SHLI X Y N (43_logic.md R203). -/
def execShli (x y : RegNum) (n : Imm8) (s : State) : Out := formRR (shiftLeft · (uimm8 n).toNat) x y s

/-- SHR X Y Z (43_logic.md R204). -/
def execShr (x y z : RegNum) (s : State) : Out := formRRR (fun a b => shiftRight a b.toNat) x y z s

/-- SHRI X Y N (43_logic.md R205). -/
def execShri (x y : RegNum) (n : Imm8) (s : State) : Out := formRR (shiftRight · (uimm8 n).toNat) x y s

/-- SHRA X Y Z (43_logic.md R206). -/
def execShra (x y z : RegNum) (s : State) : Out := formRRR (fun a b => shiftRightArith a b.toNat) x y z s

/-- SHRAI X Y N (43_logic.md R207). -/
def execShrai (x y : RegNum) (n : Imm8) (s : State) : Out :=
  formRR (shiftRightArith · (uimm8 n).toNat) x y s

/-- ROTL X Y Z (43_logic.md R208). -/
def execRotl (x y z : RegNum) (s : State) : Out := formRRR (fun a b => rotLeft a b.toNat) x y z s

/-- ROTLI X Y N (43_logic.md R209). -/
def execRotli (x y : RegNum) (n : Imm8) (s : State) : Out := formRR (rotLeft · (uimm8 n).toNat) x y s

/-- ROTR X Y Z (43_logic.md R210). -/
def execRotr (x y z : RegNum) (s : State) : Out := formRRR (fun a b => rotRight a b.toNat) x y z s

/-- ROTRI X Y N (43_logic.md R211). -/
def execRotri (x y : RegNum) (n : Imm8) (s : State) : Out := formRR (rotRight · (uimm8 n).toNat) x y s

end Sys2Proof.Machine
end

