-- ==== Sys2Proof/Machine/Subroutine.lean ====
section
/-! DEFINITION. Subroutine instructions (46_subroutine.md). CALL and RET are names without a definition. -/

namespace Sys2Proof.Machine

/-- GO X: PC takes the register's content, unchecked (46_subroutine.md R245). -/
def execGo (x : RegNum) (s : State) : Out :=
  withReg s x fun rx => .next (setPc (afterRead s rx) (readReg s rx))

/-- CALL N is refused: the spec gives it no effect (46_subroutine.md R246). -/
def execCall (_n : Imm24) (_s : State) : Out := refuse .callNotDefined

/-- RET is refused: the spec gives it no effect (46_subroutine.md R247). -/
def execRet (_s : State) : Out := refuse .retNotDefined

end Sys2Proof.Machine
end

