-- ==== Sys2Proof/Machine/SystemIo.lean ====
section
/-! DEFINITION. System and IO instructions (47_system_io.md). IN and OUT are names without a definition. -/

namespace Sys2Proof.Machine

/-- INT N calls the host under the parameter `int_handler`, a function of N, the registers and the memory
(47_system_io.md R255, log entry 5). -/
def execInt (n : Imm24) (s : State) : Out :=
  match s.cfg.intHandler with
  | .absent => refuse .intNoHandler
  | .identity => .next s
  | .system => .next (s.served (Config.osAction n s.hostCall))

/-- IN is refused: the spec gives it no format and no effect (47_system_io.md R256). -/
def execIn (_s : State) : Out := refuse .inNotDefined

/-- OUT is refused: the spec gives it no format and no effect (47_system_io.md R257). -/
def execOut (_s : State) : Out := refuse .outNotDefined

end Sys2Proof.Machine
end

