-- ==== Sys2Proof/Machine/Dispatch.lean ====
section
/-! DEFINITION. What each instruction does: one arm per constructor, each one call of its meaning. -/

namespace Sys2Proof.Machine

/-- Execute an instruction; IR holds it and PC is already advanced (10_state.md R40). -/
def exec (i : Instr) (s : State) : Host.Outcome State Fault Refusal :=
  match i with
  | .nop => Sys2Proof.Machine.execNop s
  | .eop => Sys2Proof.Machine.execEop s
  | .set x n => Sys2Proof.Machine.execSet x n s
  | .cp x y => Sys2Proof.Machine.execCp x y s
  | .lb x y z => Sys2Proof.Machine.execLb x y z s
  | .lw x y z => Sys2Proof.Machine.execLw x y z s
  | .sb x y z => Sys2Proof.Machine.execSb x y z s
  | .sw x y z => Sys2Proof.Machine.execSw x y z s
  | .push x => Sys2Proof.Machine.execPush x s
  | .pop x => Sys2Proof.Machine.execPop x s
  | .add x y z => Sys2Proof.Machine.execAdd x y z s
  | .addu x y z => Sys2Proof.Machine.execAddu x y z s
  | .addi x y n => Sys2Proof.Machine.execAddi x y n s
  | .sub x y z => Sys2Proof.Machine.execSub x y z s
  | .subu x y z => Sys2Proof.Machine.execSubu x y z s
  | .subi x y n => Sys2Proof.Machine.execSubi x y n s
  | .mul x y => Sys2Proof.Machine.execMul x y s
  | .mulu x y => Sys2Proof.Machine.execMulu x y s
  | .muli x n => Sys2Proof.Machine.execMuli x n s
  | .div x y => Sys2Proof.Machine.execDiv x y s
  | .divu x y => Sys2Proof.Machine.execDivu x y s
  | .divi x n => Sys2Proof.Machine.execDivi x n s
  | .abs x y => Sys2Proof.Machine.execAbs x y s
  | .neg x y => Sys2Proof.Machine.execNeg x y s
  | .inc x => Sys2Proof.Machine.execInc x s
  | .dec x => Sys2Proof.Machine.execDec x s
  | .mod x y z => Sys2Proof.Machine.execMod x y z s
  | .modi x y n => Sys2Proof.Machine.execModi x y n s
  | .and x y z => Sys2Proof.Machine.execAnd x y z s
  | .andi x y n => Sys2Proof.Machine.execAndi x y n s
  | .or x y z => Sys2Proof.Machine.execOr x y z s
  | .ori x y n => Sys2Proof.Machine.execOri x y n s
  | .xor x y z => Sys2Proof.Machine.execXor x y z s
  | .xori x y n => Sys2Proof.Machine.execXori x y n s
  | .not x y => Sys2Proof.Machine.execNot x y s
  | .noti x n => Sys2Proof.Machine.execNoti x n s
  | .nand x y z => Sys2Proof.Machine.execNand x y z s
  | .nandi x y n => Sys2Proof.Machine.execNandi x y n s
  | .nor x y z => Sys2Proof.Machine.execNor x y z s
  | .nori x y n => Sys2Proof.Machine.execNori x y n s
  | .shl x y z => Sys2Proof.Machine.execShl x y z s
  | .shli x y n => Sys2Proof.Machine.execShli x y n s
  | .shr x y z => Sys2Proof.Machine.execShr x y z s
  | .shri x y n => Sys2Proof.Machine.execShri x y n s
  | .shra x y z => Sys2Proof.Machine.execShra x y z s
  | .shrai x y n => Sys2Proof.Machine.execShrai x y n s
  | .rotl x y z => Sys2Proof.Machine.execRotl x y z s
  | .rotli x y n => Sys2Proof.Machine.execRotli x y n s
  | .rotr x y z => Sys2Proof.Machine.execRotr x y z s
  | .rotri x y n => Sys2Proof.Machine.execRotri x y n s
  | .cmp x y => Sys2Proof.Machine.execCmp x y s
  | .cmpu x y => Sys2Proof.Machine.execCmpu x y s
  | .cmpi x n => Sys2Proof.Machine.execCmpi x n s
  | .be n => Sys2Proof.Machine.execBe n s
  | .bne n => Sys2Proof.Machine.execBne n s
  | .bl n => Sys2Proof.Machine.execBl n s
  | .ble n => Sys2Proof.Machine.execBle n s
  | .bg n => Sys2Proof.Machine.execBg n s
  | .bge n => Sys2Proof.Machine.execBge n s
  | .jmp n => Sys2Proof.Machine.execJmp n s
  | .go x => Sys2Proof.Machine.execGo x s
  | .call n => Sys2Proof.Machine.execCall n s
  | .ret => Sys2Proof.Machine.execRet s
  | .int n => Sys2Proof.Machine.execInt n s
  | .inp => Sys2Proof.Machine.execIn s
  | .out => Sys2Proof.Machine.execOut s

end Sys2Proof.Machine
end

