-- ==== Sys2Proof/Machine/Step.lean ====
section
/-! DEFINITION. One step of the machine: fetch, decode, increment of PC, execute (10_state.md R40). -/

namespace Sys2Proof.Machine

/-- One instruction cycle of a machine that is on (10_state.md R40). A fetch outside memory faults before
IR and PC change (60_exceptions.md R281); an unassigned opcode faults after (R275). -/
def cycle (s : State) : Out :=
  if s.inMem s.pc.toNat 4 then
    match decode (fetchWord s) with
    | .ok i => exec i (afterFetch s)
    | .error (.illegalOpcode op) => raise (.illegalOpcode op) (afterFetch s)
  else raise (.memRange s.pc.toNat) s

/-- One step. A machine that is off does nothing (10_state.md R50); a faulted one has no successor
(60_exceptions.md R272). -/
def step (s : State) : Host.Outcome State Fault Refusal :=
  match s.run with
  | .on => cycle s
  | .off => .next s
  | .faulted => .fault (.alreadyFaulted s)

/-- `s` with an instruction, as its bits stand in the opcode table, stored where the next step fetches
(host interface), and the machine on. It stands for the load of a program from outside (log entry 7). -/
def State.withFetchWord (s : State) (nbits w : Nat) : State :=
  { s with
    mem := s.mem.writeWord s.pc.toNat (BitVec.ofNat 32 (w % 2 ^ nbits))
    run := .on }

end Sys2Proof.Machine
end

