-- ==== Sys2Proof/Safety.lean ====
section
/-! DEFINITION. What a safe run is, and the vocabulary claims about runs use: the invariant of the
machine, final states, what a fault leaves, and which registers and bytes an instruction names. -/

namespace Sys2Proof
namespace Machine

/-- The invariant of the machine: a legal memory size (20_memory.md R60), a canonical memory inside it
(R53), SP at most `MAXADDR` (10_state.md R25). -/
def State.inv (s : State) : Bool :=
  s.cfg.legal && s.mem.wf && s.mem.below s.cfg.memSize && spValid s s.sp

/-- A final state: EOP switched the machine off, so PC is the address of the EOP plus 4 and IR holds the EOP word
(40_control.md R131, 60_exceptions.md R287). DEDUCED (log entry 16): a machine that INT's operating system or
the host switched off is in no final state, since nothing but EOP ends a run normally (92_eei_decisions.md D29);
PC and IR tell the two apart. -/
def State.final (s : State) : Bool :=
  decide (s.run = .off ∧ byte1 s.ir = Instr.eop.opcode ∧ 4 ≤ s.pc.toNat ∧ s.mem.readWord (s.pc.toNat - 4) = s.ir)

/-- A run of `k` steps raises no fault and no refusal and ends in `t` (60_exceptions.md R287). -/
def runsTo (k : Nat) (s t : State) : Prop :=
  Host.Core.run Sys2Proof.core k s = Host.Outcome.next t

/-- A safe run: it reaches a final state, so no fault and no refusal happened, and EOP ended it
(60_exceptions.md R287). -/
def safe (s : State) : Prop := ∃ k t, runsTo k s t ∧ t.final = true

/-- The machine as a fault leaves it (60_exceptions.md R272). -/
def Fault.stopped : Fault → State
  | .memRange _ s => s
  | .illegalOpcode _ s => s
  | .invalidRegister _ s => s
  | .writeProtected _ s => s
  | .divideByZero s => s
  | .alreadyFaulted s => s

/-- The content of a register, without the draw a read of STAT makes (10_state.md R22). -/
def State.content (s : State) : Reg → Word
  | .stat => s.stat
  | r => readReg s r

end Machine

open Machine

/-- The explicit destination: the register position an instruction's rule writes with `x[X] <- ...`. -/
def Instr.destination : Instr → Option RegNum
  | .nop => none
  | .eop => none
  | .set x _ => some x
  | .cp x _ => some x
  | .lb x _ _ => some x
  | .lw x _ _ => some x
  | .sb _ _ _ => none
  | .sw _ _ _ => none
  | .push _ => none
  | .pop x => some x
  | .add x _ _ => some x
  | .addu x _ _ => some x
  | .addi x _ _ => some x
  | .sub x _ _ => some x
  | .subu x _ _ => some x
  | .subi x _ _ => some x
  | .mul _ _ => none
  | .mulu _ _ => none
  | .muli _ _ => none
  | .div _ _ => none
  | .divu _ _ => none
  | .divi _ _ => none
  | .abs x _ => some x
  | .neg x _ => some x
  | .inc x => some x
  | .dec x => some x
  | .mod x _ _ => some x
  | .modi x _ _ => some x
  | .and x _ _ => some x
  | .andi x _ _ => some x
  | .or x _ _ => some x
  | .ori x _ _ => some x
  | .xor x _ _ => some x
  | .xori x _ _ => some x
  | .not x _ => some x
  | .noti x _ => some x
  | .nand x _ _ => some x
  | .nandi x _ _ => some x
  | .nor x _ _ => some x
  | .nori x _ _ => some x
  | .shl x _ _ => some x
  | .shli x _ _ => some x
  | .shr x _ _ => some x
  | .shri x _ _ => some x
  | .shra x _ _ => some x
  | .shrai x _ _ => some x
  | .rotl x _ _ => some x
  | .rotli x _ _ => some x
  | .rotr x _ _ => some x
  | .rotri x _ _ => some x
  | .cmp _ _ => none
  | .cmpu _ _ => none
  | .cmpi _ _ => none
  | .be _ => none
  | .bne _ => none
  | .bl _ => none
  | .ble _ => none
  | .bg _ => none
  | .bge _ => none
  | .jmp _ => none
  | .go _ => none
  | .call _ => none
  | .ret => none
  | .int _ => none
  | .inp => none
  | .out => none

/-- The registers an instruction's rule writes without naming them as an operand (10_state.md R32 and
41_load_store.md R146, R147). ERR, which errors set, is not among them. -/
def Instr.implicitDestinations : Instr → List Reg
  | .nop => []
  | .eop => []
  | .set _ _ => []
  | .cp _ _ => []
  | .lb _ _ _ => []
  | .lw _ _ _ => []
  | .sb _ _ _ => []
  | .sw _ _ _ => []
  | .push _ => [.sp]
  | .pop _ => [.sp]
  | .add _ _ _ => []
  | .addu _ _ _ => []
  | .addi _ _ _ => []
  | .sub _ _ _ => []
  | .subu _ _ _ => []
  | .subi _ _ _ => []
  | .mul _ _ => [.hi, .lo]
  | .mulu _ _ => [.hi, .lo]
  | .muli _ _ => [.hi, .lo]
  | .div _ _ => [.hi, .lo]
  | .divu _ _ => [.hi, .lo]
  | .divi _ _ => [.hi, .lo]
  | .abs _ _ => []
  | .neg _ _ => []
  | .inc _ => []
  | .dec _ => []
  | .mod _ _ _ => [.hi, .lo]
  | .modi _ _ _ => [.hi, .lo]
  | .and _ _ _ => []
  | .andi _ _ _ => []
  | .or _ _ _ => []
  | .ori _ _ _ => []
  | .xor _ _ _ => []
  | .xori _ _ _ => []
  | .not _ _ => []
  | .noti _ _ => []
  | .nand _ _ _ => []
  | .nandi _ _ _ => []
  | .nor _ _ _ => []
  | .nori _ _ _ => []
  | .shl _ _ _ => []
  | .shli _ _ _ => []
  | .shr _ _ _ => []
  | .shri _ _ _ => []
  | .shra _ _ _ => []
  | .shrai _ _ _ => []
  | .rotl _ _ _ => []
  | .rotli _ _ _ => []
  | .rotr _ _ _ => []
  | .rotri _ _ _ => []
  | .cmp _ _ => [.cmpr]
  | .cmpu _ _ => [.cmpr]
  | .cmpi _ _ => [.cmpr]
  | .be _ => [.pc]
  | .bne _ => [.pc]
  | .bl _ => [.pc]
  | .ble _ => [.pc]
  | .bg _ => [.pc]
  | .bge _ => [.pc]
  | .jmp _ => [.pc]
  | .go _ => [.pc]
  | .call _ => []
  | .ret => []
  | .int _ => []
  | .inp => []
  | .out => []

/-- The registers an instruction reads by number, its explicit sources. -/
def Instr.sources : Instr → List RegNum
  | .nop => []
  | .eop => []
  | .set _ _ => []
  | .cp _ y => [y]
  | .lb x y z => [y, z, x]
  | .lw _ y z => [y, z]
  | .sb x y z => [y, z, x]
  | .sw x y z => [y, z, x]
  | .push x => [x]
  | .pop _ => []
  | .add _ y z => [y, z]
  | .addu _ y z => [y, z]
  | .addi _ y _ => [y]
  | .sub _ y z => [y, z]
  | .subu _ y z => [y, z]
  | .subi _ y _ => [y]
  | .mul x y => [x, y]
  | .mulu x y => [x, y]
  | .muli x _ => [x]
  | .div x y => [x, y]
  | .divu x y => [x, y]
  | .divi x _ => [x]
  | .abs _ y => [y]
  | .neg _ y => [y]
  | .inc x => [x]
  | .dec x => [x]
  | .mod _ y z => [y, z]
  | .modi _ y _ => [y]
  | .and _ y z => [y, z]
  | .andi _ y _ => [y]
  | .or _ y z => [y, z]
  | .ori _ y _ => [y]
  | .xor _ y z => [y, z]
  | .xori _ y _ => [y]
  | .not _ y => [y]
  | .noti _ _ => []
  | .nand _ y z => [y, z]
  | .nandi _ y _ => [y]
  | .nor _ y z => [y, z]
  | .nori _ y _ => [y]
  | .shl _ y z => [y, z]
  | .shli _ y _ => [y]
  | .shr _ y z => [y, z]
  | .shri _ y _ => [y]
  | .shra _ y z => [y, z]
  | .shrai _ y _ => [y]
  | .rotl _ y z => [y, z]
  | .rotli _ y _ => [y]
  | .rotr _ y z => [y, z]
  | .rotri _ y _ => [y]
  | .cmp x y => [x, y]
  | .cmpu x y => [x, y]
  | .cmpi x _ => [x]
  | .be _ => []
  | .bne _ => []
  | .bl _ => []
  | .ble _ => []
  | .bg _ => []
  | .bge _ => []
  | .jmp _ => []
  | .go x => [x]
  | .call _ => []
  | .ret => []
  | .int _ => []
  | .inp => []
  | .out => []

/-- The bytes an instruction stores to in state `s`, as first address and number: SB and SW at the effective
address, PUSH at the decremented SP (20_memory.md R62, 41_load_store.md R144 to R146). -/
def Instr.storedBytes (i : Instr) (s : State) : Option (Nat × Nat) :=
  match i with
  | .sb _ y z =>
    match regOf y, regOf z with
    | some ry, some rz => some (effAddr s ry rz, 1)
    | _, _ => none
  | .sw _ y z =>
    match regOf y, regOf z with
    | some ry, some rz => some (effAddr s ry rz, 4)
    | _, _ => none
  | .push _ => some ((pushSp s).toNat, 4)
  | .nop => none
  | .eop => none
  | .set _ _ => none
  | .cp _ _ => none
  | .lb _ _ _ => none
  | .lw _ _ _ => none
  | .pop _ => none
  | .add _ _ _ => none
  | .addu _ _ _ => none
  | .addi _ _ _ => none
  | .sub _ _ _ => none
  | .subu _ _ _ => none
  | .subi _ _ _ => none
  | .mul _ _ => none
  | .mulu _ _ => none
  | .muli _ _ => none
  | .div _ _ => none
  | .divu _ _ => none
  | .divi _ _ => none
  | .abs _ _ => none
  | .neg _ _ => none
  | .inc _ => none
  | .dec _ => none
  | .mod _ _ _ => none
  | .modi _ _ _ => none
  | .and _ _ _ => none
  | .andi _ _ _ => none
  | .or _ _ _ => none
  | .ori _ _ _ => none
  | .xor _ _ _ => none
  | .xori _ _ _ => none
  | .not _ _ => none
  | .noti _ _ => none
  | .nand _ _ _ => none
  | .nandi _ _ _ => none
  | .nor _ _ _ => none
  | .nori _ _ _ => none
  | .shl _ _ _ => none
  | .shli _ _ _ => none
  | .shr _ _ _ => none
  | .shri _ _ _ => none
  | .shra _ _ _ => none
  | .shrai _ _ _ => none
  | .rotl _ _ _ => none
  | .rotli _ _ _ => none
  | .rotr _ _ _ => none
  | .rotri _ _ _ => none
  | .cmp _ _ => none
  | .cmpu _ _ => none
  | .cmpi _ _ => none
  | .be _ => none
  | .bne _ => none
  | .bl _ => none
  | .ble _ => none
  | .bg _ => none
  | .bge _ => none
  | .jmp _ => none
  | .go _ => none
  | .call _ => none
  | .ret => none
  | .int _ => none
  | .inp => none
  | .out => none

/-- The bits of an instruction word that its format evaluates (30_encoding.md R93 to R101). -/
def Instr.usedBits : Instr → Word
  | .nop => 0xFF000000
  | .eop => 0xFF000000
  | .set _ _ => 0xFFFFFFFF
  | .cp _ _ => 0xFFFFFF00
  | .lb _ _ _ => 0xFFFFFFFF
  | .lw _ _ _ => 0xFFFFFFFF
  | .sb _ _ _ => 0xFFFFFFFF
  | .sw _ _ _ => 0xFFFFFFFF
  | .push _ => 0xFFFF0000
  | .pop _ => 0xFFFF0000
  | .add _ _ _ => 0xFFFFFFFF
  | .addu _ _ _ => 0xFFFFFFFF
  | .addi _ _ _ => 0xFFFFFFFF
  | .sub _ _ _ => 0xFFFFFFFF
  | .subu _ _ _ => 0xFFFFFFFF
  | .subi _ _ _ => 0xFFFFFFFF
  | .mul _ _ => 0xFFFFFF00
  | .mulu _ _ => 0xFFFFFF00
  | .muli _ _ => 0xFFFFFFFF
  | .div _ _ => 0xFFFFFF00
  | .divu _ _ => 0xFFFFFF00
  | .divi _ _ => 0xFFFFFFFF
  | .abs _ _ => 0xFFFFFF00
  | .neg _ _ => 0xFFFFFF00
  | .inc _ => 0xFFFF0000
  | .dec _ => 0xFFFF0000
  | .mod _ _ _ => 0xFFFFFFFF
  | .modi _ _ _ => 0xFFFFFFFF
  | .and _ _ _ => 0xFFFFFFFF
  | .andi _ _ _ => 0xFFFFFFFF
  | .or _ _ _ => 0xFFFFFFFF
  | .ori _ _ _ => 0xFFFFFFFF
  | .xor _ _ _ => 0xFFFFFFFF
  | .xori _ _ _ => 0xFFFFFFFF
  | .not _ _ => 0xFFFFFF00
  | .noti _ _ => 0xFFFFFFFF
  | .nand _ _ _ => 0xFFFFFFFF
  | .nandi _ _ _ => 0xFFFFFFFF
  | .nor _ _ _ => 0xFFFFFFFF
  | .nori _ _ _ => 0xFFFFFFFF
  | .shl _ _ _ => 0xFFFFFFFF
  | .shli _ _ _ => 0xFFFFFFFF
  | .shr _ _ _ => 0xFFFFFFFF
  | .shri _ _ _ => 0xFFFFFFFF
  | .shra _ _ _ => 0xFFFFFFFF
  | .shrai _ _ _ => 0xFFFFFFFF
  | .rotl _ _ _ => 0xFFFFFFFF
  | .rotli _ _ _ => 0xFFFFFFFF
  | .rotr _ _ _ => 0xFFFFFFFF
  | .rotri _ _ _ => 0xFFFFFFFF
  | .cmp _ _ => 0xFFFFFF00
  | .cmpu _ _ => 0xFFFFFF00
  | .cmpi _ _ => 0xFFFFFFFF
  | .be _ => 0xFFFFFFFF
  | .bne _ => 0xFFFFFFFF
  | .bl _ => 0xFFFFFFFF
  | .ble _ => 0xFFFFFFFF
  | .bg _ => 0xFFFFFFFF
  | .bge _ => 0xFFFFFFFF
  | .jmp _ => 0xFFFFFFFF
  | .go _ => 0xFFFF0000
  | .call _ => 0xFFFFFFFF
  | .ret => 0xFF000000
  | .int _ => 0xFFFFFFFF
  | .inp => 0xFF000000
  | .out => 0xFF000000

end Sys2Proof
end

