-- ==== Sys2Proof/Certificates/Slice0/Obligations.lean ====
section
/-! DEFINITION. The statements for the provers. `exec` runs after the cycle loaded IR and advanced PC by 4
(10_state.md R40), so a state `s` given to it holds the advanced PC; statements about `step` start from the
state before the fetch. `afterRead` and `afterReads` change nothing but the model's count of STAT draws. -/

open Sys2Proof Sys2Proof.Machine

namespace Sys2Proof.Claim

/-- The machine `s` stopped by a fault of kind `k` (60_exceptions.md R272): ERR has the kind's bits added, the
run state is `faulted`, and nothing else changed. -/
def stoppedBy (s : State) (k : ErrorKind) : State :=
  { s with err := s.err ||| Config.errBits k, run := .faulted }

/-- What 10_state.md R31 says of `x[r] <- v`, register by register, as the last act of an instruction that
answers `o`. `dn` is the machine with the instruction's other effects done, `base` the machine without
them, which a refused SP write and a faulting protected write leave (60_exceptions.md R272, R273, R277). -/
def WriteOutcome (o : Out) (base dn : State) (r : Reg) (v : Word) : Prop :=
  (∀ k, r = .gpr k → o = .next { dn with gpr := dn.gpr.set k v }) ∧
  (r = .fp → o = .next { dn with fp := v }) ∧
  (r = .err → o = .next { dn with err := v }) ∧
  (r = .hi → o = .next { dn with hi := v }) ∧
  (r = .lo → o = .next { dn with lo := v }) ∧
  (r = .cmpr → o = .next { dn with cmpr := v }) ∧
  (r = .stat → base.cfg.statWp = false → o = .next { dn with stat := v }) ∧
  (r = .sp → v.toNat ≤ base.cfg.maxAddr → o = .next { dn with sp := v }) ∧
  (r = .sp → base.cfg.maxAddr < v.toNat →
    o = .next { base with err := base.err ||| Config.errBits .spRange }) ∧
  (r = .zero ∨ r = .pc ∨ r = .ir ∨ (r = .stat ∧ base.cfg.statWp = true) →
    (base.cfg.wpWrite = .ignore → o = .next dn) ∧
    (base.cfg.wpWrite = .error →
      o = .next { dn with err := dn.err ||| Config.errBits .writeProtected }) ∧
    (base.cfg.wpWrite = .fault → o = .fault (.writeProtected r (stoppedBy base .writeProtected))))

/-- `x[X] <- f(x[Y], x[Z])` for every register in every position. -/
def Writes3 (e : RegNum → RegNum → RegNum → Instr) (f : Word → Word → Word) : Prop :=
  ∀ (s : State) (x y z : RegNum) (rx ry rz : Reg),
    regOf x = some rx → regOf y = some ry → regOf z = some rz →
      WriteOutcome (exec (e x y z) s) (afterReads s ry rz) (afterReads s ry rz) rx
        (f (readReg s ry) (readSecond s ry rz))

/-- `x[X] <- f(x[Y])` for every register in every position. -/
def Writes2 (e : RegNum → RegNum → Instr) (f : Word → Word) : Prop :=
  ∀ (s : State) (x y : RegNum) (rx ry : Reg), regOf x = some rx → regOf y = some ry →
    WriteOutcome (exec (e x y) s) (afterRead s ry) (afterRead s ry) rx (f (readReg s ry))

/-- `x[X] <- v` for every register. -/
def Writes1 (e : RegNum → Instr) (v : Word) : Prop :=
  ∀ (s : State) (x : RegNum) (rx : Reg), regOf x = some rx → WriteOutcome (exec (e x) s) s s rx v

/-- `x[X] <- f(x[X])` for every register. -/
def WritesSelf (e : RegNum → Instr) (f : Word → Word) : Prop :=
  ∀ (s : State) (x : RegNum) (rx : Reg), regOf x = some rx →
    WriteOutcome (exec (e x) s) (afterRead s rx) (afterRead s rx) rx (f (readReg s rx))

/-- `(HI, LO)` take two words that stand in the relation `p` to the two operands read. -/
def WritesHiLo (o : Out) (after : State) (p : Word → Word → Prop) : Prop :=
  ∃ h l : Word, o = .next { after with hi := h, lo := l } ∧ p h l

/-- Signed quotient and remainder (42_arithmetic.md R179): truncation toward zero, the remainder zero or with the
sign of the dividend; the one quotient that does not fit is stored modulo 2^32. -/
def SignedQuotient (n d h l : Word) : Prop :=
  (¬(n = 0x80000000 ∧ d = 0xFFFFFFFF) →
    n.toInt = h.toInt * d.toInt + l.toInt ∧ |l.toInt| < |d.toInt| ∧ 0 ≤ l.toInt * n.toInt) ∧
  (n = 0x80000000 ∧ d = 0xFFFFFFFF → h = 0x80000000 ∧ l = 0)

/-- Unsigned quotient and remainder (42_arithmetic.md R179). -/
def UnsignedQuotient (n d h l : Word) : Prop :=
  n.toNat = h.toNat * d.toNat + l.toNat ∧ l.toNat < d.toNat

/-- CMPR takes -1, 0 or +1 as `x` is less than, equal to or greater than `y` (44_compare.md R220). -/
def ComparesTo (o : Out) (after : State) (x y : Int) : Prop :=
  (x < y → o = .next { after with cmpr := 0xFFFFFFFF }) ∧
  (x = y → o = .next { after with cmpr := 0 }) ∧
  (y < x → o = .next { after with cmpr := 1 })

/-- A relative branch: taken under `c`, to PC plus four times `n`; otherwise PC stays (45_branch.md R230). -/
def BranchesIf (o : Out) (s : State) (c : Prop) (n : Int) : Prop :=
  (c → o = .next { s with pc := BitVec.ofInt 32 (s.pc.toNat + 4 * n) }) ∧ (¬c → o = .next s)

/-- The 66 assigned opcodes (30_encoding.md R111). -/
def assigned : List Byte :=
  [0x00, 0x04, 0x10, 0x11, 0x12, 0x13, 0x14, 0x15, 0x18, 0x19, 0x30, 0x31, 0x32, 0x33, 0x34, 0x35, 0x38, 0x39,
    0x3A, 0x3B, 0x3C, 0x3D, 0x40, 0x41, 0x42, 0x43, 0x48, 0x49] ++
  [0x50, 0x51, 0x52, 0x53, 0x54, 0x55, 0x56, 0x57, 0x58, 0x59, 0x5A, 0x5B, 0x60, 0x61, 0x62, 0x63, 0x64, 0x65,
    0x68, 0x69, 0x6A, 0x6B] ++
  [0x70, 0x71, 0x72, 0x80, 0x81, 0x82, 0x83, 0x84, 0x85, 0x88, 0x90, 0x91, 0x92, 0xA0, 0xB0, 0xB1]

/-- The machine is on and the four bytes at PC lie in memory. -/
def Fetches (s : State) : Prop := s.run = .on ∧ s.pc.toNat + 4 ≤ s.cfg.memSize

/-- The same machine under another operating mode. -/
def withMode (s : State) (m : Mode) : State := { s with cfg := { s.cfg with mode := m } }

/-- The same fault, the stopped machine under another operating mode. -/
def faultUnder (m : Mode) : Fault → Fault
  | .memRange a s => .memRange a (withMode s m)
  | .illegalOpcode op s => .illegalOpcode op (withMode s m)
  | .invalidRegister n s => .invalidRegister n (withMode s m)
  | .writeProtected r s => .writeProtected r (withMode s m)
  | .divideByZero s => .divideByZero (withMode s m)
  | .alreadyFaulted s => .alreadyFaulted (withMode s m)

/-- The same outcome, the machine in it under another operating mode. -/
def outcomeUnder (m : Mode) : Out → Out
  | .next s => .next (withMode s m)
  | .fault f => .fault (faultUnder m f)
  | .refused r => .refused r

/-- The value `f(x[Y])`, where Y names a register. -/
def value1 (s : State) (y : RegNum) (f : Word → Word) : Option Word :=
  (regOf y).map fun ry => f (readReg s ry)

/-- The value `f(x[Y], x[Z])`, where Y and Z name registers. -/
def value2 (s : State) (y z : RegNum) (f : Word → Word → Word) : Option Word :=
  match regOf y, regOf z with
  | some ry, some rz => some (f (readReg s ry) (readSecond s ry rz))
  | _, _ => none

/-- The value `f(a)` of a load of `n` bytes at the sum `a` of base and index, where they lie in memory. -/
def valueAt (s : State) (y z : RegNum) (n : Nat) (f : Nat → Word) : Option Word :=
  match regOf y, regOf z with
  | some ry, some rz =>
    let a := (readReg s ry).toNat + (readSecond s ry rz).toNat
    if a + n ≤ s.cfg.memSize then some (f a) else none
  | _, _ => none

/-- The word at `a`, big-endian. -/
def wordAt (s : State) (a : Nat) : Word :=
  s.mem.read a ++ s.mem.read (a + 1) ++ s.mem.read (a + 2) ++ s.mem.read (a + 3)

/-- The value an instruction writes to its explicit destination X, if X is SP (41_load_store.md R140 to R143,
42_arithmetic.md R160 to R177, 43_logic.md R190 to R211); none where it faults before the write. -/
def explicitSpWrite (i : Instr) (s : State) : Option Word :=
  match i with
  | .set _ n => some (BitVec.ofInt 32 n.toInt)
  | .cp _ y => value1 s y fun a => a
  | .lb _ y z => valueAt s y z 1 fun a => byte1 s.sp ++ byte2 s.sp ++ byte3 s.sp ++ s.mem.read a
  | .lw _ y z => valueAt s y z 4 (wordAt s)
  | .add _ y z => value2 s y z fun a b => BitVec.ofInt 32 (a.toInt + b.toInt)
  | .addu _ y z => value2 s y z fun a b => BitVec.ofNat 32 (a.toNat + b.toNat)
  | .addi _ y n => value1 s y fun a => BitVec.ofInt 32 (a.toInt + n.toInt)
  | .sub _ y z => value2 s y z fun a b => BitVec.ofInt 32 (a.toInt - b.toInt)
  | .subu _ y z => value2 s y z fun a b => BitVec.ofInt 32 ((a.toNat : Int) - b.toNat)
  | .subi _ y n => value1 s y fun a => BitVec.ofInt 32 (a.toInt - n.toInt)
  | .abs _ y => value1 s y fun a => BitVec.ofInt 32 |a.toInt|
  | .neg _ y => value1 s y fun a => ~~~a + 1
  | .inc _ => some (s.sp + 1)
  | .dec _ => some (s.sp - 1)
  | .mod _ y z =>
    if value2 s y z (fun _ b => b) = some 0 then none
    else value2 s y z fun a b => BitVec.ofNat 32 (a.toNat % b.toNat)
  | .modi _ y n => if n = 0 then none else value1 s y fun a => BitVec.ofNat 32 (a.toNat % n.toNat)
  | .and _ y z => value2 s y z fun a b => a &&& b
  | .andi _ y n => value1 s y fun a => a &&& BitVec.ofNat 32 n.toNat
  | .or _ y z => value2 s y z fun a b => a ||| b
  | .ori _ y n => value1 s y fun a => a ||| BitVec.ofNat 32 n.toNat
  | .xor _ y z => value2 s y z fun a b => a ^^^ b
  | .xori _ y n => value1 s y fun a => a ^^^ BitVec.ofNat 32 n.toNat
  | .not _ y => value1 s y fun a => ~~~a
  | .noti _ n => some (~~~(BitVec.ofNat 32 n.toNat))
  | .nand _ y z => value2 s y z fun a b => ~~~(a &&& b)
  | .nandi _ y n => value1 s y fun a => ~~~(a &&& BitVec.ofNat 32 n.toNat)
  | .nor _ y z => value2 s y z fun a b => ~~~(a ||| b)
  | .nori _ y n => value1 s y fun a => ~~~(a ||| BitVec.ofNat 32 n.toNat)
  | .shl _ y z => value2 s y z fun a b => BitVec.ofNat 32 (a.toNat * 2 ^ b.toNat)
  | .shli _ y n => value1 s y fun a => BitVec.ofNat 32 (a.toNat * 2 ^ n.toNat)
  | .shr _ y z => value2 s y z fun a b => BitVec.ofNat 32 (a.toNat / 2 ^ b.toNat)
  | .shri _ y n => value1 s y fun a => BitVec.ofNat 32 (a.toNat / 2 ^ n.toNat)
  | .shra _ y z => value2 s y z fun a b => BitVec.ofInt 32 (a.toInt / (2 ^ b.toNat : Nat))
  | .shrai _ y n => value1 s y fun a => BitVec.ofInt 32 (a.toInt / (2 ^ n.toNat : Nat))
  | .rotl _ y z => value2 s y z fun a b => a.rotateLeft (b.toNat % 32)
  | .rotli _ y n => value1 s y fun a => a.rotateLeft (n.toNat % 32)
  | .rotr _ y z => value2 s y z fun a b => a.rotateRight (b.toNat % 32)
  | .rotri _ y n => value1 s y fun a => a.rotateRight (n.toNat % 32)
  | .nop | .eop | .sb _ _ _ | .sw _ _ _ | .push _ | .pop _ | .mul _ _ | .mulu _ _ | .muli _ _ | .div _ _
  | .divu _ _ | .divi _ _ | .cmp _ _ | .cmpu _ _ | .cmpi _ _ | .be _ | .bne _ | .bl _ | .ble _ | .bg _ | .bge _
  | .jmp _ | .go _ | .call _ | .ret | .int _ | .inp | .out => none

/-- The values an instruction attempts to write to SP, as integers: PUSH and POP by themselves (41_load_store.md
R146, R147), POP SP the loaded value and that plus 4, and the others their explicit destination. -/
def spWrites (i : Instr) (s : State) : List Int :=
  match i with
  | .push x => if (regOf x).isSome then [(s.sp.toNat : Int) - 4] else []
  | .pop x =>
    let a := s.sp.toNat
    if s.cfg.memSize < a + 4 then []
    else match regOf x with
      | none => []
      | some .sp => [(a : Int) + 4, (wordAt s a).toNat, ((wordAt s a).toNat : Int) + 4]
      | some _ => [(a : Int) + 4]
  | i =>
    match i.destination.bind regOf with
    | some .sp => (explicitSpWrite i s).toList.map fun v => (v.toNat : Int)
    | _ => []

/-- The kind of error a fault signals in ERR (60_exceptions.md R271). -/
def kindOf : Fault → Option ErrorKind
  | .memRange _ _ => some .memRange
  | .illegalOpcode _ _ => some .illegalOpcode
  | .invalidRegister _ _ => some .invalidRegister
  | .writeProtected _ _ => some .writeProtected
  | .divideByZero _ => some .divideByZero
  | .alreadyFaulted _ => none

end Sys2Proof.Claim

open Sys2Proof.Claim

/-! ### Encoding -/

/-- Every instruction's word decodes to it, whatever its operands (30_encoding.md R100, R111, R112). -/
def Obligations.DecodeEncodeRoundTrip : Prop := ∀ i : Instr, decode (encode i) = .ok i

/-- A word that decodes to an instruction holds its opcode in the first byte, and agrees with the instruction's
own word on all bits the format evaluates (30_encoding.md R100, R112). -/
def Obligations.DecodedWordAgreesWithEncoding : Prop :=
  ∀ (w : Word) (i : Instr), decode w = .ok i → byte1 w = i.opcode ∧ encode i = w &&& i.usedBits

/-- Unused bytes are ignored, and the opcode byte alone selects the instruction (30_encoding.md R101). -/
def Obligations.UnusedBytesAreIgnored : Prop :=
  ∀ (w w' : Word) (i : Instr), decode w = .ok i →
    (w' &&& i.usedBits = w &&& i.usedBits → decode w' = .ok i) ∧
    (byte1 w' = byte1 w → ∃ i', decode w' = .ok i' ∧ i'.opcode = i.opcode)

/-- Words written out from the encodings of 30_encoding.md R93 to R99, one of each format. -/
def Obligations.SampleWordsDecode : Prop :=
  decode 0x04000000 = .ok .eop ∧ decode 0x10021234 = .ok (.set 2 0x1234) ∧
  decode 0x11220100 = .ok (.cp 34 1) ∧ decode 0x15020103 = .ok (.sw 2 1 3) ∧
  decode 0x18050000 = .ok (.push 5) ∧ decode 0x32010205 = .ok (.addi 1 2 5) ∧
  decode 0x70010200 = .ok (.cmp 1 2) ∧ decode 0x81FFFFFC = .ok (.bne 0xFFFFFC) ∧
  decode 0x90050000 = .ok (.go 5) ∧ decode 0xA0000001 = .ok (.int 1)

/-- An unassigned opcode faults with IR and PC as the cycle left them; an assigned one decodes
(60_exceptions.md R275, 30_encoding.md R113). -/
def Obligations.UnassignedOpcodeFaults : Prop :=
  ∀ s : State,
    (byte1 (fetchWord s) ∈ assigned → ∃ i, decode (fetchWord s) = .ok i) ∧
    (Fetches s → byte1 (fetchWord s) ∉ assigned →
      step s = .fault (.illegalOpcode (byte1 (fetchWord s))
        (stoppedBy { s with ir := fetchWord s, pc := BitVec.ofNat 32 (s.pc.toNat + 4) } .illegalOpcode)))

/-! ### The cycle -/

/-- A step fetches the big-endian word at PC, loads it into IR, advances PC by 4 and executes the decoded
instruction (10_state.md R40). -/
def Obligations.StepRunsDecodedInstruction : Prop :=
  ∀ (s : State) (i : Instr), Fetches s →
    decode (s.mem.read s.pc.toNat ++ s.mem.read (s.pc.toNat + 1) ++ s.mem.read (s.pc.toNat + 2) ++
      s.mem.read (s.pc.toNat + 3)) = .ok i →
    step s = exec i
      { s with
        ir := s.mem.read s.pc.toNat ++ s.mem.read (s.pc.toNat + 1) ++ s.mem.read (s.pc.toNat + 2) ++
          s.mem.read (s.pc.toNat + 3)
        pc := BitVec.ofNat 32 (s.pc.toNat + 4) }

/-- A fetch with a byte outside memory faults; IR and PC keep their values (60_exceptions.md R274, R281). -/
def Obligations.FetchOutsideMemoryFaults : Prop :=
  ∀ s : State, s.run = .on → s.cfg.memSize < s.pc.toNat + 4 →
    step s = .fault (.memRange s.pc.toNat (stoppedBy s .memRange))

/-- A machine that is off changes nothing however long it runs; a faulted one has no successor
(10_state.md R50, 60_exceptions.md R272). How a faulted machine answers a step is the model's choice (log entry 10). -/
def Obligations.StoppedMachineStaysStopped : Prop :=
  ∀ s : State,
    (s.run = .off → ∀ k, Host.Core.run Sys2Proof.core k s = .next s) ∧
    (s.run = .faulted → step s = .fault (.alreadyFaulted s))

/-- CP reads PC as its own address plus 4 and IR as its own word; JMP counts from its address plus 4
(10_state.md R44, R27, 92_eei_decisions.md D37). -/
def Obligations.PcAndIrAreReadAfterTheIncrement : Prop :=
  ∀ (s : State) (x : RegNum) (k : Fin 32), Fetches s → regOf x = some (.gpr k) →
    (decode (fetchWord s) = .ok (.cp x 33) →
      ∃ t, step s = .next t ∧ t.gpr.get k = BitVec.ofNat 32 (s.pc.toNat + 4)) ∧
    (decode (fetchWord s) = .ok (.cp x 36) → ∃ t, step s = .next t ∧ t.gpr.get k = fetchWord s) ∧
    (∀ n, decode (fetchWord s) = .ok (.jmp n) →
      ∃ t, step s = .next t ∧ t.pc = BitVec.ofNat 32 (s.pc.toNat + 4 + 4 * n.toNat))

/-! ### Memory -/

/-- A word stored lies big-endian at its four addresses, loads back, and touches no other byte
(20_memory.md R65 to R67). -/
def Obligations.WordStoreIsBigEndian : Prop :=
  ∀ (m : Memory) (a : Nat) (v : Word), m.wf = true →
    (m.writeWord a v).readWord a = v ∧
    (∀ j : Fin 4, ((m.writeWord a v).read (a + j.val)).toNat = v.toNat / 256 ^ (3 - j.val) % 256) ∧
    ∀ a', a' < a ∨ a + 4 ≤ a' → (m.writeWord a v).read a' = m.read a'

/-- DESIGN CHOICE of the representation (log entry 4): canonical memories that read alike are equal data. -/
def Obligations.CanonicalMemoriesReadingAlikeAreEqual : Prop :=
  ∀ m m' : Memory, m.wf = true → m'.wf = true → (∀ a, m.read a = m'.read a) → m = m'

/-- A word that SW stores at the address in PC is the word the next fetch gets (20_memory.md R80). -/
def Obligations.FetchSeesEarlierStore : Prop :=
  ∀ (s t : State) (x y z : RegNum) (rx ry rz : Reg), s.mem.wf = true →
    regOf x = some rx → regOf y = some ry → regOf z = some rz → effAddr s ry rz = s.pc.toNat →
    exec (.sw x y z) s = .next t → fetchWord t = readReg (afterReads s ry rz) rx

/-! ### Registers -/

/-- Reading a register by number (10_state.md R30). -/
def Obligations.RegisterReadByNumber : Prop :=
  ∀ s : State,
    (regOf 0 = some .zero ∧ readReg s .zero = 0) ∧
    (∀ k : Fin 32, regOf (BitVec.ofNat 8 (k.val + 1)) = some (.gpr k) ∧ readReg s (.gpr k) = s.gpr.get k) ∧
    (regOf 33 = some .pc ∧ readReg s .pc = s.pc) ∧ (regOf 34 = some .sp ∧ readReg s .sp = s.sp) ∧
    (regOf 35 = some .fp ∧ readReg s .fp = s.fp) ∧ (regOf 36 = some .ir ∧ readReg s .ir = s.ir) ∧
    (regOf 37 = some .stat ∧ readReg s .stat = Config.statDraw s.statReads) ∧
    (regOf 38 = some .err ∧ readReg s .err = s.err) ∧ (regOf 39 = some .hi ∧ readReg s .hi = s.hi) ∧
    (regOf 40 = some .lo ∧ readReg s .lo = s.lo) ∧ (regOf 41 = some .cmpr ∧ readReg s .cmpr = s.cmpr) ∧
    ∀ (n : RegNum) (go : Reg → Out), 42 ≤ n.toNat →
      withReg s n go = .fault (.invalidRegister n (stoppedBy s .invalidRegister))

/-- Writing a register by number, under every setting of `WP_WRITE` and `STAT_WP` (10_state.md R31). -/
def Obligations.RegisterWriteByNumber : Prop :=
  ∀ (s : State) (n : RegNum) (v : Word),
    (∀ r, regOf n = some r → WriteOutcome (withReg s n fun r => writeResult s r v) s s r v) ∧
    (42 ≤ n.toNat → (withReg s n fun r => writeResult s r v) =
      .fault (.invalidRegister n (stoppedBy s .invalidRegister)))

/-- An instruction with a byte 42 to 255 in a register position faults on the first such byte and does nothing
else; a well-formed one never raises InvalidRegister (60_exceptions.md R276, R281). -/
def Obligations.InvalidRegisterFaultsFirst : Prop :=
  ∀ (i : Instr) (s : State),
    (∀ n, i.regs.find? (fun b => decide (42 ≤ b.toNat)) = some n →
      exec i s = .fault (.invalidRegister n (stoppedBy s .invalidRegister))) ∧
    (WellFormed i = true → ∀ n t, exec i s ≠ .fault (.invalidRegister n t))

/-- Every read of STAT is the next free draw, also after STAT was written (10_state.md R28,
92_eei_decisions.md D6); the count of draws is the model's own (log entry 2). -/
def Obligations.StatReadIsAFreshDraw : Prop :=
  ∀ (s : State) (x : RegNum) (k : Fin 32) (v : Word), regOf x = some (.gpr k) →
    exec (.cp x 37) s = .next { s with
      gpr := s.gpr.set k (Config.statDraw s.statReads)
      statReads := s.statReads + 1 } ∧
    (s.cfg.statWp = false → ∃ t, exec (.cp 37 x) s = .next t ∧ t.stat = s.gpr.get k ∧
      readReg t .stat = readReg s .stat) ∧
    readReg { s with stat := v } .stat = readReg s .stat

/-- No draw of STAT is read twice: an instruction that goes on uses up one draw for every source position that
names STAT, also where its result is refused, but for a refused PUSH, which reads nothing (10_state.md R28). The
count of draws is the model's own (log entry 2). -/
def Obligations.EveryStatReadUsesUpADraw : Prop :=
  ∀ (i : Instr) (s t : State), exec i s = .next t →
    t.statReads = s.statReads + i.sources.countP (fun n => decide (regOf n = some .stat)) ∨
      ((∃ x, i = .push x) ∧ t = s.signal .spRange)

/-! ### Control, load and store -/

/-- Every word with first byte 0x00 is a NOP, and NOP does nothing (40_control.md R130). -/
def Obligations.NopDoesNothing : Prop :=
  ∀ (s : State) (b2 b3 b4 : Byte), decode (joinBytes 0x00 b2 b3 b4) = .ok .nop ∧ exec .nop s = .next s

/-- Every word with first byte 0x04 is an EOP, and EOP switches the machine off for good
(40_control.md R131). -/
def Obligations.EopSwitchesOff : Prop :=
  ∀ (s : State) (b2 b3 b4 : Byte), decode (joinBytes 0x04 b2 b3 b4) = .ok .eop ∧
    ∃ t, exec .eop s = .next t ∧ t = { s with run := .off } ∧
      ∀ k, Host.Core.run Sys2Proof.core k t = .next t

/-- SET, CP and NOTI complete with the value their rule gives (41_load_store.md R140, R141, 43_logic.md R197). -/
def Obligations.SetCopyNotiResults : Prop :=
  (∀ n : Imm16, Writes1 (fun x => .set x n) (BitVec.ofInt 32 n.toInt)) ∧
  Writes2 (fun x y => .cp x y) (fun a => a) ∧
  (∀ n : Imm16, Writes1 (fun x => .noti x n) (~~~(BitVec.ofNat 32 n.toNat)))

/-- LB replaces the low byte of X and LW the whole of it, at the unreduced sum of base and index; outside memory
they fault and change nothing (41_load_store.md R142, R143). -/
def Obligations.LoadResults : Prop :=
  ∀ (s : State) (x y z : RegNum) (rx ry rz : Reg),
    regOf x = some rx → regOf y = some ry → regOf z = some rz →
    let a := (readReg s ry).toNat + (readSecond s ry rz).toNat
    let s2 := afterReads s ry rz
    let old := readReg s2 rx
    (a + 1 ≤ s.cfg.memSize →
      WriteOutcome (exec (.lb x y z) s) (afterRead s2 rx) (afterRead s2 rx) rx
        (byte1 old ++ byte2 old ++ byte3 old ++ s.mem.read a)) ∧
    (s.cfg.memSize < a + 1 → exec (.lb x y z) s = .fault (.memRange a (stoppedBy s .memRange))) ∧
    (a + 4 ≤ s.cfg.memSize →
      WriteOutcome (exec (.lw x y z) s) s2 s2 rx
        (s.mem.read a ++ s.mem.read (a + 1) ++ s.mem.read (a + 2) ++ s.mem.read (a + 3))) ∧
    (s.cfg.memSize < a + 4 → exec (.lw x y z) s = .fault (.memRange a (stoppedBy s .memRange)))

/-- SB stores the low byte of X and SW all four, big-endian, at the unreduced sum of base and index, and nothing
else changes; outside memory they fault and store nothing (41_load_store.md R144, R145). -/
def Obligations.StoreResults : Prop :=
  ∀ (s : State) (x y z : RegNum) (rx ry rz : Reg), s.mem.wf = true →
    regOf x = some rx → regOf y = some ry → regOf z = some rz →
    let a := (readReg s ry).toNat + (readSecond s ry rz).toNat
    let s2 := afterReads s ry rz
    let v := readReg s2 rx
    (a + 1 ≤ s.cfg.memSize →
      ∃ m, exec (.sb x y z) s = .next { afterRead s2 rx with mem := m } ∧
        m.read a = byte4 v ∧ ∀ a', a' ≠ a → m.read a' = s.mem.read a') ∧
    (s.cfg.memSize < a + 1 → exec (.sb x y z) s = .fault (.memRange a (stoppedBy s .memRange))) ∧
    (a + 4 ≤ s.cfg.memSize →
      ∃ m, exec (.sw x y z) s = .next { afterRead s2 rx with mem := m } ∧
        m.read a = byte1 v ∧ m.read (a + 1) = byte2 v ∧ m.read (a + 2) = byte3 v ∧ m.read (a + 3) = byte4 v ∧
        ∀ a', a' < a ∨ a + 4 ≤ a' → m.read a' = s.mem.read a') ∧
    (s.cfg.memSize < a + 4 → exec (.sw x y z) s = .fault (.memRange a (stoppedBy s .memRange)))

/-- PUSH decrements SP by 4 and stores X, read after the decrement, at the new SP; below 4 the decrement is refused
and signalled (41_load_store.md R146). -/
def Obligations.PushResult : Prop :=
  ∀ (s : State) (x : RegNum) (rx : Reg), s.mem.wf = true → regOf x = some rx →
    let s1 := { s with sp := BitVec.ofNat 32 (s.sp.toNat - 4) }
    let a := s.sp.toNat - 4
    let v := readReg s1 rx
    (4 ≤ s.sp.toNat → s.sp.toNat ≤ s.cfg.maxAddr →
      ∃ m, exec (.push x) s = .next { afterRead s1 rx with mem := m } ∧
        m.read a = byte1 v ∧ m.read (a + 1) = byte2 v ∧ m.read (a + 2) = byte3 v ∧ m.read (a + 3) = byte4 v ∧
        ∀ a', a' < a ∨ a + 4 ≤ a' → m.read a' = s.mem.read a') ∧
    (s.sp.toNat < 4 → exec (.push x) s = .next { s with err := s.err ||| Config.errBits .spRange })

/-- POP loads the word at SP into X and adds 4 to SP; a read outside memory faults first, an SP past `MAXADDR` is
refused and signalled (41_load_store.md R147). The clauses for X = SP whose writes are refused follow log
entry 8; that a refused increment of SP comes before the fault of a write-protected X follows log entry 18. -/
def Obligations.PopResult : Prop :=
  ∀ (s : State) (x : RegNum) (rx : Reg), s.cfg.legal = true → regOf x = some rx →
    let a := s.sp.toNat
    let v := s.mem.read a ++ s.mem.read (a + 1) ++ s.mem.read (a + 2) ++ s.mem.read (a + 3)
    let refused : State := { s with err := s.err ||| Config.errBits .spRange }
    (s.cfg.memSize < a + 4 → exec (.pop x) s = .fault (.memRange a (stoppedBy s .memRange))) ∧
    (a + 4 = s.cfg.memSize → exec (.pop x) s = .next refused) ∧
    (a + 4 < s.cfg.memSize → rx ≠ .sp →
      WriteOutcome (exec (.pop x) s) s { s with sp := BitVec.ofNat 32 (a + 4) } rx v) ∧
    (a + 4 < s.cfg.memSize → rx = .sp → v.toNat + 4 ≤ s.cfg.maxAddr →
      exec (.pop x) s = .next { s with sp := BitVec.ofNat 32 (v.toNat + 4) }) ∧
    (a + 4 < s.cfg.memSize → rx = .sp → s.cfg.maxAddr < v.toNat + 4 → exec (.pop x) s = .next refused)

/-- A POP after a PUSH brings the pushed register's content into the popped one and SP back (20_memory.md R75). -/
def Obligations.PopUndoesPush : Prop :=
  ∀ (s : State) (x y : RegNum) (j k : Fin 32), s.inv = true → 4 ≤ s.sp.toNat →
    regOf x = some (.gpr j) → regOf y = some (.gpr k) →
    ∃ t u, exec (.push x) s = .next t ∧ exec (.pop y) t = .next u ∧
      u = { s with gpr := s.gpr.set k (s.gpr.get j), mem := t.mem }

/-! ### Arithmetic -/

/-- ADD, ADDU, ADDI, SUB, SUBU and SUBI write the exact result reduced modulo 2^32
(42_arithmetic.md R160 to R165, R178). -/
def Obligations.AdditionSubtractionResults : Prop :=
  Writes3 (fun x y z => .add x y z) (fun a b => BitVec.ofInt 32 (a.toInt + b.toInt)) ∧
  Writes3 (fun x y z => .addu x y z) (fun a b => BitVec.ofNat 32 (a.toNat + b.toNat)) ∧
  (∀ n : Imm8, Writes2 (fun x y => .addi x y n) (fun a => BitVec.ofInt 32 (a.toInt + n.toInt))) ∧
  Writes3 (fun x y z => .sub x y z) (fun a b => BitVec.ofInt 32 (a.toInt - b.toInt)) ∧
  Writes3 (fun x y z => .subu x y z) (fun a b => BitVec.ofInt 32 ((a.toNat : Int) - b.toNat)) ∧
  (∀ n : Imm8, Writes2 (fun x y => .subi x y n) (fun a => BitVec.ofInt 32 (a.toInt - n.toInt)))

/-- The signed and the unsigned variant of addition and subtraction do the same (42_arithmetic.md R178). -/
def Obligations.SignedAndUnsignedSumsAgree : Prop :=
  ∀ (x y z : RegNum) (s : State),
    exec (.add x y z) s = exec (.addu x y z) s ∧ exec (.sub x y z) s = exec (.subu x y z) s

/-- HI and LO together hold the exact 64-bit product (42_arithmetic.md R166 to R168, R179). -/
def Obligations.MultiplyResults : Prop :=
  ∀ (s : State) (x y : RegNum) (n : Imm16) (rx ry : Reg), regOf x = some rx → regOf y = some ry →
    let a := readReg s rx
    let b := readSecond s rx ry
    WritesHiLo (exec (.mul x y) s) (afterReads s rx ry) (fun h l => (h ++ l).toInt = a.toInt * b.toInt) ∧
    WritesHiLo (exec (.mulu x y) s) (afterReads s rx ry) (fun h l => (h ++ l).toNat = a.toNat * b.toNat) ∧
    WritesHiLo (exec (.muli x n) s) (afterRead s rx) (fun h l => (h ++ l).toInt = a.toInt * n.toInt)

/-- DIV, DIVU and DIVI by a nonzero divisor: quotient in HI, remainder in LO (42_arithmetic.md R169 to R171, R179). -/
def Obligations.DivisionResults : Prop :=
  ∀ (s : State) (x y : RegNum) (n : Imm16) (rx ry : Reg), regOf x = some rx → regOf y = some ry →
    let a := readReg s rx
    let b := readSecond s rx ry
    (b ≠ 0 → WritesHiLo (exec (.div x y) s) (afterReads s rx ry) (SignedQuotient a b)) ∧
    (b ≠ 0 → WritesHiLo (exec (.divu x y) s) (afterReads s rx ry) (UnsignedQuotient a b)) ∧
    (n ≠ 0 → WritesHiLo (exec (.divi x n) s) (afterRead s rx) (SignedQuotient a (BitVec.ofInt 32 n.toInt)))

/-- MOD and MODI by a nonzero divisor: HI and LO as DIVU, then X takes the remainder
(42_arithmetic.md R176, R177). That a refused write of X leaves HI and LO as they were follows log entry 9. -/
def Obligations.ModuloResults : Prop :=
  ∀ (s : State) (x y z : RegNum) (n : Imm8) (rx ry rz : Reg),
    regOf x = some rx → regOf y = some ry → regOf z = some rz →
    let a := readReg s ry
    let b := readSecond s ry rz
    let s1 := afterRead s ry
    let s2 := afterReads s ry rz
    (b ≠ 0 → ∃ h l, UnsignedQuotient a b h l ∧
      WriteOutcome (exec (.mod x y z) s) s2 { s2 with hi := h, lo := l } rx l) ∧
    (n ≠ 0 → ∃ h l, UnsignedQuotient a (BitVec.ofNat 32 n.toNat) h l ∧
      WriteOutcome (exec (.modi x y n) s) s1 { s1 with hi := h, lo := l } rx l)

/-- Every dividing instruction faults on a zero divisor and leaves HI, LO and X as they were
(60_exceptions.md R278). -/
def Obligations.ZeroDivisorFaults : Prop :=
  ∀ (s : State) (x y z : RegNum) (rx ry rz : Reg),
    regOf x = some rx → regOf y = some ry → regOf z = some rz →
    let stop : Out := .fault (.divideByZero (stoppedBy s .divideByZero))
    (readSecond s rx ry = 0 → exec (.div x y) s = stop ∧ exec (.divu x y) s = stop) ∧
    exec (.divi x 0) s = stop ∧
    (readSecond s ry rz = 0 → exec (.mod x y z) s = stop) ∧
    exec (.modi x y 0) s = stop

/-- ABS, NEG, INC and DEC, modulo 2^32 (42_arithmetic.md R172 to R175, R178). That ABS reads its source once, which
shows only for STAT, is the model's choice (log entry 17). -/
def Obligations.UnaryResults : Prop :=
  Writes2 (fun x y => .abs x y) (fun a => BitVec.ofInt 32 |a.toInt|) ∧
  Writes2 (fun x y => .neg x y) (fun a => ~~~a + 1) ∧
  WritesSelf (fun x => .inc x) (fun a => a + 1) ∧
  WritesSelf (fun x => .dec x) (fun a => a - 1)

/-! ### Logic -/

/-- The bitwise instructions write the operation of the two operands, immediates zero-extended
(43_logic.md R190 to R196, R198 to R201, R212). -/
def Obligations.BitwiseResults : Prop :=
  Writes3 (fun x y z => .and x y z) (fun a b => a &&& b) ∧
  Writes3 (fun x y z => .or x y z) (fun a b => a ||| b) ∧
  Writes3 (fun x y z => .xor x y z) (fun a b => a ^^^ b) ∧
  Writes3 (fun x y z => .nand x y z) (fun a b => ~~~(a &&& b)) ∧
  Writes3 (fun x y z => .nor x y z) (fun a b => ~~~(a ||| b)) ∧
  Writes2 (fun x y => .not x y) (fun a => ~~~a) ∧
  ∀ n : Imm8,
    Writes2 (fun x y => .andi x y n) (fun a => a &&& BitVec.ofNat 32 n.toNat) ∧
    Writes2 (fun x y => .ori x y n) (fun a => a ||| BitVec.ofNat 32 n.toNat) ∧
    Writes2 (fun x y => .xori x y n) (fun a => a ^^^ BitVec.ofNat 32 n.toNat) ∧
    Writes2 (fun x y => .nandi x y n) (fun a => ~~~(a &&& BitVec.ofNat 32 n.toNat)) ∧
    Writes2 (fun x y => .nori x y n) (fun a => ~~~(a ||| BitVec.ofNat 32 n.toNat))

/-- Shifts by any amount, not reduced, written as multiplication and division by a power of two, rounding down
(43_logic.md R202 to R207, R213). -/
def Obligations.ShiftResults : Prop :=
  Writes3 (fun x y z => .shl x y z) (fun a b => BitVec.ofNat 32 (a.toNat * 2 ^ b.toNat)) ∧
  Writes3 (fun x y z => .shr x y z) (fun a b => BitVec.ofNat 32 (a.toNat / 2 ^ b.toNat)) ∧
  Writes3 (fun x y z => .shra x y z) (fun a b => BitVec.ofInt 32 (a.toInt / (2 ^ b.toNat : Nat))) ∧
  ∀ n : Imm8,
    Writes2 (fun x y => .shli x y n) (fun a => BitVec.ofNat 32 (a.toNat * 2 ^ n.toNat)) ∧
    Writes2 (fun x y => .shri x y n) (fun a => BitVec.ofNat 32 (a.toNat / 2 ^ n.toNat)) ∧
    Writes2 (fun x y => .shrai x y n) (fun a => BitVec.ofInt 32 (a.toInt / (2 ^ n.toNat : Nat)))

/-- Rotations by any amount, taken modulo 32 (43_logic.md R208 to R211, R213). -/
def Obligations.RotateResults : Prop :=
  Writes3 (fun x y z => .rotl x y z) (fun a b => a.rotateLeft (b.toNat % 32)) ∧
  Writes3 (fun x y z => .rotr x y z) (fun a b => a.rotateRight (b.toNat % 32)) ∧
  ∀ n : Imm8,
    Writes2 (fun x y => .rotli x y n) (fun a => a.rotateLeft (n.toNat % 32)) ∧
    Writes2 (fun x y => .rotri x y n) (fun a => a.rotateRight (n.toNat % 32))

/-- No rotation loses a bit: rotating back restores the word, right by k is left by 32 - k, and the period is 32
(43_logic.md R208, R210, R213). -/
def Obligations.RotationsUndoEachOther : Prop :=
  ∀ (a : Word) (k : Nat),
    rotRight (rotLeft a k) k = a ∧ rotLeft (rotRight a k) k = a ∧
    rotRight a k = rotLeft a ((32 - k % 32) % 32) ∧ rotLeft a (k + 32) = rotLeft a k ∧
    rotRight a (k + 32) = rotRight a k

/-! ### Compare, branch, subroutine, system -/

/-- CMP, CMPU and CMPI write -1, 0 or +1 to CMPR and nothing else (44_compare.md R220 to R223). -/
def Obligations.CompareResults : Prop :=
  ∀ (s : State) (x y : RegNum) (n : Imm16) (rx ry : Reg), regOf x = some rx → regOf y = some ry →
    let a := readReg s rx
    let b := readSecond s rx ry
    ComparesTo (exec (.cmp x y) s) (afterReads s rx ry) a.toInt b.toInt ∧
    ComparesTo (exec (.cmpu x y) s) (afterReads s rx ry) a.toNat b.toNat ∧
    ComparesTo (exec (.cmpi x n) s) (afterRead s rx) a.toInt n.toInt

/-- The six conditional branches and JMP (45_branch.md R230 to R238): CMPR is tested as a signed number, PC is the
advanced one. -/
def Obligations.BranchResults : Prop :=
  ∀ (s : State) (n : Imm24),
    let c := s.cmpr.toInt
    BranchesIf (exec (.be n) s) s (c = 0) n.toInt ∧ BranchesIf (exec (.bne n) s) s (c ≠ 0) n.toInt ∧
    BranchesIf (exec (.bl n) s) s (c < 0) n.toInt ∧ BranchesIf (exec (.ble n) s) s (c ≤ 0) n.toInt ∧
    BranchesIf (exec (.bg n) s) s (0 < c) n.toInt ∧ BranchesIf (exec (.bge n) s) s (0 ≤ c) n.toInt ∧
    exec (.jmp n) s = .next { s with pc := BitVec.ofNat 32 (s.pc.toNat + 4 * n.toNat) }

/-- After CMP X Y the branches are taken as X stands to Y, signed (44_compare.md R221, 45_branch.md R231 to R236). -/
def Obligations.BranchAfterCompareFollowsOrder : Prop :=
  ∀ (s t : State) (x y : RegNum) (n : Imm24) (rx ry : Reg), regOf x = some rx → regOf y = some ry →
    exec (.cmp x y) s = .next t →
    let a := (readReg s rx).toInt
    let b := (readSecond s rx ry).toInt
    BranchesIf (exec (.be n) t) t (a = b) n.toInt ∧ BranchesIf (exec (.bne n) t) t (a ≠ b) n.toInt ∧
    BranchesIf (exec (.bl n) t) t (a < b) n.toInt ∧ BranchesIf (exec (.ble n) t) t (a ≤ b) n.toInt ∧
    BranchesIf (exec (.bg n) t) t (b < a) n.toInt ∧ BranchesIf (exec (.bge n) t) t (b ≤ a) n.toInt

/-- GO is opcode 0x90, sets PC to the register's content, unchecked, and changes nothing else; where that target lies
outside memory the next fetch faults (46_subroutine.md R245). -/
def Obligations.GoResult : Prop :=
  ∀ (s : State) (x : RegNum) (b3 b4 : Byte) (rx : Reg), regOf x = some rx →
    decode (joinBytes 0x90 x b3 b4) = .ok (.go x) ∧
    let t : State := { afterRead s rx with pc := readReg s rx }
    exec (.go x) s = .next t ∧
    (s.run = .on → s.cfg.memSize < (readReg s rx).toNat + 4 →
      step t = .fault (.memRange (readReg s rx).toNat (stoppedBy t .memRange)))

/-- INT under each setting of `int_handler` (47_system_io.md R255): identity is a no-operation, an operating system
hands back a machine with the same PC, IR and parameters (the model's bounds, log entry 5), no handler is a
refusal. -/
def Obligations.IntResult : Prop :=
  ∀ (s : State) (n : Imm24),
    (s.cfg.intHandler = .identity → exec (.int n) s = .next s) ∧
    (s.cfg.intHandler = .system → ∃ t, exec (.int n) s = .next t ∧ t.pc = s.pc ∧ t.ir = s.ir ∧
      t.cfg = s.cfg ∧ (t.run = s.run ∨ t.run = .off) ∧ (s.inv = true → t.inv = true)) ∧
    (s.cfg.intHandler = .absent → exec (.int n) s = .refused .intNoHandler)

/-- What an operating system does on INT depends on the code, the registers and the memory alone: machines that
differ only in other parameters end INT with the same registers, memory and run state (47_system_io.md R255). That
STAT counts here as last written, so that machines alike in that content are answered alike, and the bounds on what
the system changes are the model's choice (log entry 5). -/
def Obligations.IntHandlerSeesRegistersAndMemoryOnly : Prop :=
  ∀ (s s' : State) (n : Imm24), s.cfg.intHandler = .system → s'.cfg.intHandler = .system →
    s.hostCall = s'.hostCall → s.run = s'.run →
    ∃ t t', exec (.int n) s = .next t ∧ exec (.int n) s' = .next t' ∧ t.hostCall = t'.hostCall ∧ t.run = t'.run

/-- CALL, RET, IN and OUT decode and are refused (46_subroutine.md R246, R247, 47_system_io.md R256, R257). -/
def Obligations.UndefinedNamesAreRefused : Prop :=
  ∀ (s : State) (b2 b3 b4 : Byte) (n : Imm24),
    (decode (joinBytes 0x91 b2 b3 b4) = .ok (.call (b2 ++ b3 ++ b4)) ∧
      exec (.call n) s = .refused .callNotDefined) ∧
    (decode (joinBytes 0x92 b2 b3 b4) = .ok .ret ∧ exec .ret s = .refused .retNotDefined) ∧
    (decode (joinBytes 0xB0 b2 b3 b4) = .ok .inp ∧ exec .inp s = .refused .inNotDefined) ∧
    (decode (joinBytes 0xB1 b2 b3 b4) = .ok .out ∧ exec .out s = .refused .outNotDefined)

/-! ### Frames -/

/-- What an instruction other than INT leaves alone among the registers: every register but its explicit
destination, its implicit ones (10_state.md R32) and ERR; ERR unless it is the destination or an error is
signalled; the parameters; the run state unless it is EOP; the count of STAT draws unless STAT is a source. -/
def Obligations.RegisterFrame : Prop :=
  ∀ (i : Instr) (s t : State), (∀ n, i ≠ .int n) → exec i s = .next t →
    (∀ r, r ≠ .err → (∀ n, i.destination = some n → regOf n ≠ some r) → r ∉ i.implicitDestinations →
      t.content r = s.content r) ∧
    ((∀ n, i.destination = some n → regOf n ≠ some .err) →
      t.err = s.err ∨ t.err = s.err ||| Config.errBits .spRange ∨
        t.err = s.err ||| Config.errBits .writeProtected) ∧
    ((i.destination = none ∧ ∀ x, i ≠ .push x) → t.err = s.err) ∧
    t.cfg = s.cfg ∧ (i ≠ .eop → t.run = s.run) ∧
    ((∀ n ∈ i.sources, regOf n ≠ some .stat) → t.statReads = s.statReads)

/-- What an instruction other than INT leaves alone in memory: every byte but those SB, SW or PUSH stores, at the
address computed from the state before (20_memory.md R62, R67). -/
def Obligations.MemoryFrame : Prop :=
  ∀ (i : Instr) (s t : State), (∀ n, i ≠ .int n) → exec i s = .next t →
    ∀ a, (∀ b n, i.storedBytes s = some (b, n) → a < b ∨ b + n ≤ a) → t.mem.read a = s.mem.read a

/-- A fault leaves every register and memory byte as before the instruction, but for ERR, which has the fault's
bits added, and IR and PC: a fetch outside memory leaves both, every later fault finds them as the cycle set
them (60_exceptions.md R272, R281, R282). The count of STAT draws is the model's own (log entry 2). -/
def Obligations.FaultsArePrecise : Prop :=
  ∀ (s : State) (f : Fault), s.run = .on → step s = .fault f →
    (s.cfg.memSize < s.pc.toNat + 4 → f = .memRange s.pc.toNat (stoppedBy s .memRange)) ∧
    (Fetches s → ∃ k n, kindOf f = some k ∧
      f.stopped = { stoppedBy s k with
        ir := fetchWord s
        pc := BitVec.ofNat 32 (s.pc.toNat + 4)
        statReads := n })

/-! ### The whole machine -/

/-- Every step keeps the invariant: legal memory size, canonical memory inside it, SP at most `MAXADDR`
(10_state.md R25, R53). -/
def Obligations.StepKeepsMachineInvariant : Prop :=
  ∀ s t : State, s.inv = true → step s = .next t → t.inv = true

/-- Every boot under legal parameters, with any program that fits, meets the invariant; so does reset, which
holds the model's chosen values (log entries 1, 4, 6). -/
def Obligations.BootMeetsMachineInvariant : Prop :=
  (∀ (c : Config) (p : PowerOn) (image : List Byte), c.legal = true → p.mem.wf = true →
    p.mem.below c.memSize = true → image.length ≤ c.memSize → (State.bootImage c p image).inv = true) ∧
  State.reset.inv = true

/-- The state after boot, whatever boot leaves unspecified; the default mode is normal (10_state.md R52). That the
first read of STAT is draw 0 is the model's choice: its own counter starts at 0 (log entries 2 and 6). So is what
it says of an image longer than memory, a host error in the spec (70_reset_and_hazards.md R304, log entry 19). -/
def Obligations.BootState : Prop :=
  (∀ (c : Config) (p : PowerOn) (image : List Byte), c.legal = true → p.mem.wf = true →
    let s := State.bootImage c p image
    (∀ k, s.gpr.get k = 0) ∧ readReg s .zero = 0 ∧ s.pc = 0 ∧ s.sp.toNat = c.maxAddr ∧ s.err = 0 ∧
    s.fp = p.fp ∧ s.ir = p.ir ∧ s.stat = p.stat ∧ readReg s .stat = Config.statDraw 0 ∧
    s.hi = p.hi ∧ s.lo = p.lo ∧ s.cmpr = p.cmpr ∧ s.run = .on ∧ s.cfg.mode = c.mode ∧
    (∀ j (h : j < image.length), s.mem.read j = image[j]) ∧
    ∀ a, image.length ≤ a → s.mem.read a = p.mem.read a) ∧
  Config.standard.mode = .normal

/-- A general register changes in a step only if the instruction executed names it as its destination, or is INT
(10_state.md R21). -/
def Obligations.GeneralRegistersChangeOnlyOnRequest : Prop :=
  ∀ (s t : State) (k : Fin 32), step s = .next t → t.gpr.get k ≠ s.gpr.get k →
    ∃ i, decode (fetchWord s) = .ok i ∧
      ((∃ n, i.destination = some n ∧ regOf n = some (.gpr k)) ∨ ∃ n, i = .int n)

/-- Memory changes in a step only if the instruction executed is SB, SW, PUSH or INT (20_memory.md R62). -/
def Obligations.MemoryChangesOnlyByStores : Prop :=
  ∀ s t : State, step s = .next t → t.mem ≠ s.mem →
    ∃ i, decode (fetchWord s) = .ok i ∧
      ((∃ x y z, i = .sb x y z) ∨ (∃ x y z, i = .sw x y z) ∨ (∃ x, i = .push x) ∨ ∃ n, i = .int n)

/-- A step that ends with the machine not on, from a machine that is on, executed EOP or INT, and left it off
(10_state.md R50, 40_control.md R131). -/
def Obligations.OnlyEopOrIntSwitchesOff : Prop :=
  ∀ s t : State, s.run = .on → step s = .next t → t.run ≠ .on →
    t.run = .off ∧ (decode (fetchWord s) = .ok .eop ∨ ∃ n, decode (fetchWord s) = .ok (.int n))

/-- A step of a running machine leads to a final state exactly if it executed EOP; in that state PC is the address of
the EOP plus 4 and IR holds its word. So a machine that INT's operating system switched off is in no final state
(40_control.md R131, 60_exceptions.md R287; log entry 16). -/
def Obligations.OnlyEopLeadsToAFinalState : Prop :=
  ∀ s t : State, s.inv = true → s.run = .on → step s = .next t →
    (t.final = true ↔ decode (fetchWord s) = .ok .eop) ∧
    (t.final = true → t.pc.toNat = s.pc.toNat + 4 ∧ t.ir = fetchWord s)

/-- A safe run of a running machine executed EOP, and nothing stopped it before (60_exceptions.md R287; log
entry 16). -/
def Obligations.SafeRunEndsWithEop : Prop :=
  ∀ s : State, s.inv = true → s.run = .on → safe s →
    ∃ k u t, runsTo k s u ∧ u.run = .on ∧ decode (fetchWord u) = .ok .eop ∧ runsTo (k + 1) s t ∧ t.final = true

/-- The machine never clears a bit of ERR: a step keeps every set bit unless the instruction names ERR as its
destination, or is INT (10_state.md R29, 60_exceptions.md R272). -/
def Obligations.ErrBitsStayUntilProgramWritesErr : Prop :=
  ∀ s t : State, step s = .next t →
    (∀ i n, decode (fetchWord s) = .ok i → i.destination = some n → regOf n ≠ some .err) →
    (∀ n, decode (fetchWord s) ≠ .ok (.int n)) → t.err &&& s.err = s.err

/-- A refused SP write, by any instruction whose destination is SP and by PUSH and POP, leaves SP unchanged and ERR
nonzero, has no other effect, and the run goes on (60_exceptions.md R273, R284). That it keeps HI and LO of MOD and
MODI, what POP SP does, and that it comes before the fault of a write-protected X of POP follow log entries 9, 8
and 18; the count of STAT draws is the model's own (log entry 2). -/
def Obligations.RefusedSpWriteIsObservable : Prop :=
  ∀ (i : Instr) (s : State) (v : Int), s.cfg.legal = true → v ∈ spWrites i s →
    v < 0 ∨ (s.cfg.maxAddr : Int) < v →
    ∃ n t, exec i s = .next t ∧
      t = { s with err := s.err ||| Config.errBits .spRange, statReads := n } ∧ t.sp = s.sp ∧ t.err ≠ 0

/-- The parameters fixed before boot never change in a step (60_exceptions.md R285). -/
def Obligations.ParametersNeverChange : Prop := ∀ s t : State, step s = .next t → t.cfg = s.cfg

/-- The operating mode changes nothing: under either mode a step has the same outcome, fault and refusal included,
and so has a run of any length (10_state.md R51, 60_exceptions.md R286). -/
def Obligations.ModeChangesNothing : Prop :=
  ∀ (s : State) (m : Mode),
    step (withMode s m) = outcomeUnder m (step s) ∧
    ∀ k, Host.Core.run Sys2Proof.core k (withMode s m) = outcomeUnder m (Host.Core.run Sys2Proof.core k s)
end

