-- ==== Sys2Proof/Laws/Bytes.lean ====
section
/-! SUPPORT. Cutting a word into bytes and joining bytes into a word undo each other. -/

namespace Sys2Proof

@[simp] theorem byte1_joinBytes (a b c d : Byte) : byte1 (joinBytes a b c d) = a := by
  apply BitVec.eq_of_getLsbD_eq; intro i hi
  simp only [byte1, joinBytes, BitVec.getLsbD_extractLsb', BitVec.getLsbD_append]
  grind

@[simp] theorem byte2_joinBytes (a b c d : Byte) : byte2 (joinBytes a b c d) = b := by
  apply BitVec.eq_of_getLsbD_eq; intro i hi
  simp only [byte2, joinBytes, BitVec.getLsbD_extractLsb', BitVec.getLsbD_append]
  grind

@[simp] theorem byte3_joinBytes (a b c d : Byte) : byte3 (joinBytes a b c d) = c := by
  apply BitVec.eq_of_getLsbD_eq; intro i hi
  simp only [byte3, joinBytes, BitVec.getLsbD_extractLsb', BitVec.getLsbD_append]
  grind

@[simp] theorem byte4_joinBytes (a b c d : Byte) : byte4 (joinBytes a b c d) = d := by
  apply BitVec.eq_of_getLsbD_eq; intro i hi
  simp only [byte4, joinBytes, BitVec.getLsbD_extractLsb', BitVec.getLsbD_append]
  grind

@[simp] theorem joinBytes_bytes (w : Word) : joinBytes (byte1 w) (byte2 w) (byte3 w) (byte4 w) = w := by
  apply BitVec.eq_of_getLsbD_eq; intro i hi
  simp only [joinBytes, byte1, byte2, byte3, byte4, BitVec.getLsbD_extractLsb', BitVec.getLsbD_append]
  grind

@[simp] theorem join16_bytes (n : Imm16) : join16 (n.extractLsb' 8 8) (n.extractLsb' 0 8) = n := by
  apply BitVec.eq_of_getLsbD_eq; intro i hi
  simp only [join16, BitVec.getLsbD_extractLsb', BitVec.getLsbD_append]
  grind

@[simp] theorem join24_bytes (n : Imm24) :
    join24 (n.extractLsb' 16 8) (n.extractLsb' 8 8) (n.extractLsb' 0 8) = n := by
  apply BitVec.eq_of_getLsbD_eq; intro i hi
  simp only [join24, BitVec.getLsbD_extractLsb', BitVec.getLsbD_append]
  grind

/-- A word laid out as memory holds it decodes as the word does. -/
theorem decodeLayout_layout (w : Word) : decodeLayout (layout w) = (decode w).toOption := by
  simp [decodeLayout, layout]

/-- The decoder's first match is on the opcode byte of the word. -/
theorem decode_joinBytes (b1 b2 b3 b4 : Byte) :
    decode (joinBytes b1 b2 b3 b4) = decodeBytes b1 b2 b3 b4 := by
  simp [decode]

/-- Decoding an encoded instruction reads its opcode and operand bytes. -/
theorem decode_encode_bytes (i : Instr) :
    decode (encode i) = decodeBytes i.opcode i.operands.1 i.operands.2.1 i.operands.2.2 := by
  simp [encode, decode_joinBytes]

end Sys2Proof
end

