-- ==== Sys2Proof/Laws/Memory.lean ====
section
/-! SUPPORT. Memory: what a read gives after a write, and the canonical form, which every memory
operation keeps. -/

namespace Sys2Proof.Machine

/-- Below the first listed address a canonical memory reads as unlisted. -/
theorem Memory.read_of_lt (m : Memory) (lo a : Nat) (h : m.wfFrom lo = true) (ha : a < lo) :
    m.read a = Memory.unlisted := by
  induction m generalizing lo with
  | nil => rfl
  | cons c rest ih =>
    obtain ⟨k, v⟩ := c
    simp only [Memory.wfFrom, Bool.and_eq_true, decide_eq_true_eq] at h
    have hk : k ≠ a := by omega
    simp only [Memory.read, hk, if_false]
    exact ih (k + 1) h.2 (by omega)

/-- A write leaves every other byte as it was. -/
theorem Memory.read_write_of_ne (m : Memory) (a a' : Nat) (b : Byte) (h : a' ≠ a) :
    (m.write a b).read a' = m.read a' := by
  induction m with
  | nil => grind [Memory.read, Memory.write]
  | cons c rest ih =>
    obtain ⟨k, v⟩ := c
    grind [Memory.read, Memory.write]

theorem Memory.read_write_self_from (m : Memory) (lo a : Nat) (b : Byte) (h : m.wfFrom lo = true) :
    (m.write a b).read a = b := by
  induction m generalizing lo with
  | nil => grind [Memory.read, Memory.write]
  | cons c rest ih =>
    obtain ⟨k, v⟩ := c
    simp only [Memory.wfFrom, Bool.and_eq_true, decide_eq_true_eq] at h
    have hlt := Memory.read_of_lt rest (k + 1) a h.2
    have := ih (k + 1) h.2
    grind [Memory.read, Memory.write]

/-- A read at the address just written gives the byte written. -/
theorem Memory.read_write_self (m : Memory) (a : Nat) (b : Byte) (h : m.wf = true) :
    (m.write a b).read a = b :=
  m.read_write_self_from 0 a b h

theorem Memory.wfFrom_mono (m : Memory) (lo lo' : Nat) (h : m.wfFrom lo = true) (hl : lo' ≤ lo) :
    m.wfFrom lo' = true := by
  cases m with
  | nil => rfl
  | cons c rest =>
    obtain ⟨k, v⟩ := c
    simp only [Memory.wfFrom, Bool.and_eq_true, decide_eq_true_eq] at h ⊢
    exact ⟨⟨by omega, h.1.2⟩, h.2⟩

theorem Memory.wfFrom_write (m : Memory) (lo a : Nat) (b : Byte) (h : m.wfFrom lo = true) (ha : lo ≤ a) :
    (m.write a b).wfFrom lo = true := by
  induction m generalizing lo with
  | nil => grind [Memory.write, Memory.wfFrom]
  | cons c rest ih =>
    obtain ⟨k, v⟩ := c
    simp only [Memory.wfFrom, Bool.and_eq_true, decide_eq_true_eq] at h
    have h1 := Memory.wfFrom_mono rest (k + 1) lo h.2 (by omega)
    have := ih (k + 1) h.2
    grind [Memory.write, Memory.wfFrom]

/-- A write keeps the canonical form. -/
theorem Memory.wf_write (m : Memory) (a : Nat) (b : Byte) (h : m.wf = true) : (m.write a b).wf = true :=
  m.wfFrom_write 0 a b h (Nat.zero_le a)

/-- A write below `n` keeps every listed address below `n`. -/
theorem Memory.below_write (m : Memory) (n a : Nat) (b : Byte) (h : m.below n = true) (ha : a < n) :
    (m.write a b).below n = true := by
  induction m with
  | nil => grind [Memory.write, Memory.below]
  | cons c rest ih =>
    obtain ⟨k, v⟩ := c
    simp only [Memory.below, List.all_cons, Bool.and_eq_true, decide_eq_true_eq] at h ih
    have := ih h.2
    simp only [Memory.write]
    grind [Memory.below]

/-- A word store keeps the canonical form. -/
theorem Memory.wf_writeWord (m : Memory) (a : Nat) (v : Word) (h : m.wf = true) :
    (m.writeWord a v).wf = true := by
  unfold Memory.writeWord
  exact Memory.wf_write _ _ _ (Memory.wf_write _ _ _ (Memory.wf_write _ _ _ (Memory.wf_write _ _ _ h)))

/-- A word store inside `n` bytes keeps every listed address below `n`. -/
theorem Memory.below_writeWord (m : Memory) (n a : Nat) (v : Word) (h : m.below n = true) (ha : a + 4 ≤ n) :
    (m.writeWord a v).below n = true := by
  unfold Memory.writeWord
  exact Memory.below_write _ _ _ _ (Memory.below_write _ _ _ _ (Memory.below_write _ _ _ _
    (Memory.below_write _ _ _ _ h (by omega)) (by omega)) (by omega)) (by omega)

/-- A word store leaves every byte outside its four addresses as it was. -/
theorem Memory.read_writeWord_of_outside (m : Memory) (a a' : Nat) (v : Word) (h : a' < a ∨ a + 4 ≤ a') :
    (m.writeWord a v).read a' = m.read a' := by
  unfold Memory.writeWord
  rw [Memory.read_write_of_ne _ _ _ _ (by omega), Memory.read_write_of_ne _ _ _ _ (by omega),
    Memory.read_write_of_ne _ _ _ _ (by omega), Memory.read_write_of_ne _ _ _ _ (by omega)]

/-- The four bytes a word store leaves, most significant first. -/
theorem Memory.read_writeWord (m : Memory) (a : Nat) (v : Word) (h : m.wf = true) :
    (m.writeWord a v).read a = byte1 v ∧ (m.writeWord a v).read (a + 1) = byte2 v ∧
    (m.writeWord a v).read (a + 2) = byte3 v ∧ (m.writeWord a v).read (a + 3) = byte4 v := by
  have h1 := Memory.wf_write m a (byte1 v) h
  have h2 := Memory.wf_write _ (a + 1) (byte2 v) h1
  have h3 := Memory.wf_write _ (a + 2) (byte3 v) h2
  unfold Memory.writeWord
  refine ⟨?_, ?_, ?_, Memory.read_write_self _ _ _ h3⟩
  · rw [Memory.read_write_of_ne _ _ _ _ (by omega), Memory.read_write_of_ne _ _ _ _ (by omega),
      Memory.read_write_of_ne _ _ _ _ (by omega), Memory.read_write_self _ _ _ h]
  · rw [Memory.read_write_of_ne _ _ _ _ (by omega), Memory.read_write_of_ne _ _ _ _ (by omega),
      Memory.read_write_self _ _ _ h1]
  · rw [Memory.read_write_of_ne _ _ _ _ (by omega), Memory.read_write_self _ _ _ h2]

/-- Loading the word just stored gives it back. -/
theorem Memory.readWord_writeWord (m : Memory) (a : Nat) (v : Word) (h : m.wf = true) :
    (m.writeWord a v).readWord a = v := by
  obtain ⟨h1, h2, h3, h4⟩ := Memory.read_writeWord m a v h
  simp [Memory.readWord, h1, h2, h3, h4]

/-- Loading a program keeps the canonical form. -/
theorem Memory.wf_load (m : Memory) (a : Nat) (bs : List Byte) (h : m.wf = true) : (m.load a bs).wf = true := by
  induction bs generalizing m a with
  | nil => exact h
  | cons b rest ih => exact ih _ _ (Memory.wf_write _ _ _ h)

/-- Loading a program that fits keeps every listed address below `n`. -/
theorem Memory.below_load (m : Memory) (n a : Nat) (bs : List Byte) (h : m.below n = true)
    (ha : a + bs.length ≤ n) : (m.load a bs).below n = true := by
  induction bs generalizing m a with
  | nil => exact h
  | cons b rest ih =>
    simp only [List.length_cons] at ha
    exact ih _ _ (Memory.below_write _ _ _ _ h (by omega)) (by omega)

/-- The host's stores keep the canonical form. -/
theorem Memory.wf_storeCells (n : Nat) (m : Memory) (cs : List Host.Cell) (h : m.wf = true) :
    (m.storeCells n cs).wf = true := by
  induction cs generalizing m with
  | nil => exact h
  | cons c rest ih =>
    obtain ⟨a, b⟩ := c
    refine ih _ ?_
    split
    · exact Memory.wf_write _ _ _ h
    · exact h

/-- The host's stores keep every listed address below `n`. -/
theorem Memory.below_storeCells (n : Nat) (m : Memory) (cs : List Host.Cell) (h : m.below n = true) :
    (m.storeCells n cs).below n = true := by
  induction cs generalizing m with
  | nil => exact h
  | cons c rest ih =>
    obtain ⟨a, b⟩ := c
    refine ih _ ?_
    split
    · exact Memory.below_write _ _ _ _ h (by assumption)
    · exact h

/-- The memory of the machine right after reset has the canonical form. -/
theorem reset_mem_wf : State.reset.mem.wf = true := rfl

end Sys2Proof.Machine
end

