-- ==== Sys2Proof/Laws/State.lean ====
section
/-! SUPPORT. What each named update of the state leaves in each field, so that no proof unfolds a record
update. -/

namespace Sys2Proof.Machine

variable (s : State)

/-! ### State.signal -/

@[simp] theorem signal_gpr (k : ErrorKind) : (s.signal k).gpr = s.gpr := rfl
@[simp] theorem signal_pc (k : ErrorKind) : (s.signal k).pc = s.pc := rfl
@[simp] theorem signal_sp (k : ErrorKind) : (s.signal k).sp = s.sp := rfl
@[simp] theorem signal_fp (k : ErrorKind) : (s.signal k).fp = s.fp := rfl
@[simp] theorem signal_ir (k : ErrorKind) : (s.signal k).ir = s.ir := rfl
@[simp] theorem signal_stat (k : ErrorKind) : (s.signal k).stat = s.stat := rfl
@[simp] theorem signal_err (k : ErrorKind) : (s.signal k).err = s.err ||| Config.errBits k := rfl
@[simp] theorem signal_hi (k : ErrorKind) : (s.signal k).hi = s.hi := rfl
@[simp] theorem signal_lo (k : ErrorKind) : (s.signal k).lo = s.lo := rfl
@[simp] theorem signal_cmpr (k : ErrorKind) : (s.signal k).cmpr = s.cmpr := rfl
@[simp] theorem signal_mem (k : ErrorKind) : (s.signal k).mem = s.mem := rfl
@[simp] theorem signal_run (k : ErrorKind) : (s.signal k).run = s.run := rfl
@[simp] theorem signal_cfg (k : ErrorKind) : (s.signal k).cfg = s.cfg := rfl
@[simp] theorem signal_statReads (k : ErrorKind) : (s.signal k).statReads = s.statReads := rfl

/-! ### State.faultedBy -/

@[simp] theorem faultedBy_gpr (k : ErrorKind) : (s.faultedBy k).gpr = s.gpr := rfl
@[simp] theorem faultedBy_pc (k : ErrorKind) : (s.faultedBy k).pc = s.pc := rfl
@[simp] theorem faultedBy_sp (k : ErrorKind) : (s.faultedBy k).sp = s.sp := rfl
@[simp] theorem faultedBy_fp (k : ErrorKind) : (s.faultedBy k).fp = s.fp := rfl
@[simp] theorem faultedBy_ir (k : ErrorKind) : (s.faultedBy k).ir = s.ir := rfl
@[simp] theorem faultedBy_stat (k : ErrorKind) : (s.faultedBy k).stat = s.stat := rfl
@[simp] theorem faultedBy_err (k : ErrorKind) : (s.faultedBy k).err = s.err ||| Config.errBits k := rfl
@[simp] theorem faultedBy_hi (k : ErrorKind) : (s.faultedBy k).hi = s.hi := rfl
@[simp] theorem faultedBy_lo (k : ErrorKind) : (s.faultedBy k).lo = s.lo := rfl
@[simp] theorem faultedBy_cmpr (k : ErrorKind) : (s.faultedBy k).cmpr = s.cmpr := rfl
@[simp] theorem faultedBy_mem (k : ErrorKind) : (s.faultedBy k).mem = s.mem := rfl
@[simp] theorem faultedBy_run (k : ErrorKind) : (s.faultedBy k).run = .faulted := rfl
@[simp] theorem faultedBy_cfg (k : ErrorKind) : (s.faultedBy k).cfg = s.cfg := rfl
@[simp] theorem faultedBy_statReads (k : ErrorKind) : (s.faultedBy k).statReads = s.statReads := rfl

/-! ### setHiLo -/

@[simp] theorem setHiLo_gpr (v : Word × Word) : (setHiLo s v).gpr = s.gpr := rfl
@[simp] theorem setHiLo_pc (v : Word × Word) : (setHiLo s v).pc = s.pc := rfl
@[simp] theorem setHiLo_sp (v : Word × Word) : (setHiLo s v).sp = s.sp := rfl
@[simp] theorem setHiLo_fp (v : Word × Word) : (setHiLo s v).fp = s.fp := rfl
@[simp] theorem setHiLo_ir (v : Word × Word) : (setHiLo s v).ir = s.ir := rfl
@[simp] theorem setHiLo_stat (v : Word × Word) : (setHiLo s v).stat = s.stat := rfl
@[simp] theorem setHiLo_err (v : Word × Word) : (setHiLo s v).err = s.err := rfl
@[simp] theorem setHiLo_hi (v : Word × Word) : (setHiLo s v).hi = v.1 := rfl
@[simp] theorem setHiLo_lo (v : Word × Word) : (setHiLo s v).lo = v.2 := rfl
@[simp] theorem setHiLo_cmpr (v : Word × Word) : (setHiLo s v).cmpr = s.cmpr := rfl
@[simp] theorem setHiLo_mem (v : Word × Word) : (setHiLo s v).mem = s.mem := rfl
@[simp] theorem setHiLo_run (v : Word × Word) : (setHiLo s v).run = s.run := rfl
@[simp] theorem setHiLo_cfg (v : Word × Word) : (setHiLo s v).cfg = s.cfg := rfl
@[simp] theorem setHiLo_statReads (v : Word × Word) : (setHiLo s v).statReads = s.statReads := rfl

/-! ### setCmpr -/

@[simp] theorem setCmpr_gpr (v : Word) : (setCmpr s v).gpr = s.gpr := rfl
@[simp] theorem setCmpr_pc (v : Word) : (setCmpr s v).pc = s.pc := rfl
@[simp] theorem setCmpr_sp (v : Word) : (setCmpr s v).sp = s.sp := rfl
@[simp] theorem setCmpr_fp (v : Word) : (setCmpr s v).fp = s.fp := rfl
@[simp] theorem setCmpr_ir (v : Word) : (setCmpr s v).ir = s.ir := rfl
@[simp] theorem setCmpr_stat (v : Word) : (setCmpr s v).stat = s.stat := rfl
@[simp] theorem setCmpr_err (v : Word) : (setCmpr s v).err = s.err := rfl
@[simp] theorem setCmpr_hi (v : Word) : (setCmpr s v).hi = s.hi := rfl
@[simp] theorem setCmpr_lo (v : Word) : (setCmpr s v).lo = s.lo := rfl
@[simp] theorem setCmpr_cmpr (v : Word) : (setCmpr s v).cmpr = v := rfl
@[simp] theorem setCmpr_mem (v : Word) : (setCmpr s v).mem = s.mem := rfl
@[simp] theorem setCmpr_run (v : Word) : (setCmpr s v).run = s.run := rfl
@[simp] theorem setCmpr_cfg (v : Word) : (setCmpr s v).cfg = s.cfg := rfl
@[simp] theorem setCmpr_statReads (v : Word) : (setCmpr s v).statReads = s.statReads := rfl

/-! ### setPc -/

@[simp] theorem setPc_gpr (v : Word) : (setPc s v).gpr = s.gpr := rfl
@[simp] theorem setPc_pc (v : Word) : (setPc s v).pc = v := rfl
@[simp] theorem setPc_sp (v : Word) : (setPc s v).sp = s.sp := rfl
@[simp] theorem setPc_fp (v : Word) : (setPc s v).fp = s.fp := rfl
@[simp] theorem setPc_ir (v : Word) : (setPc s v).ir = s.ir := rfl
@[simp] theorem setPc_stat (v : Word) : (setPc s v).stat = s.stat := rfl
@[simp] theorem setPc_err (v : Word) : (setPc s v).err = s.err := rfl
@[simp] theorem setPc_hi (v : Word) : (setPc s v).hi = s.hi := rfl
@[simp] theorem setPc_lo (v : Word) : (setPc s v).lo = s.lo := rfl
@[simp] theorem setPc_cmpr (v : Word) : (setPc s v).cmpr = s.cmpr := rfl
@[simp] theorem setPc_mem (v : Word) : (setPc s v).mem = s.mem := rfl
@[simp] theorem setPc_run (v : Word) : (setPc s v).run = s.run := rfl
@[simp] theorem setPc_cfg (v : Word) : (setPc s v).cfg = s.cfg := rfl
@[simp] theorem setPc_statReads (v : Word) : (setPc s v).statReads = s.statReads := rfl

/-! ### afterFetch -/

@[simp] theorem afterFetch_gpr : (afterFetch s).gpr = s.gpr := rfl
@[simp] theorem afterFetch_pc : (afterFetch s).pc = BitVec.ofNat 32 (s.pc.toNat + 4) := rfl
@[simp] theorem afterFetch_sp : (afterFetch s).sp = s.sp := rfl
@[simp] theorem afterFetch_fp : (afterFetch s).fp = s.fp := rfl
@[simp] theorem afterFetch_ir : (afterFetch s).ir = fetchWord s := rfl
@[simp] theorem afterFetch_stat : (afterFetch s).stat = s.stat := rfl
@[simp] theorem afterFetch_err : (afterFetch s).err = s.err := rfl
@[simp] theorem afterFetch_hi : (afterFetch s).hi = s.hi := rfl
@[simp] theorem afterFetch_lo : (afterFetch s).lo = s.lo := rfl
@[simp] theorem afterFetch_cmpr : (afterFetch s).cmpr = s.cmpr := rfl
@[simp] theorem afterFetch_mem : (afterFetch s).mem = s.mem := rfl
@[simp] theorem afterFetch_run : (afterFetch s).run = s.run := rfl
@[simp] theorem afterFetch_cfg : (afterFetch s).cfg = s.cfg := rfl
@[simp] theorem afterFetch_statReads : (afterFetch s).statReads = s.statReads := rfl

/-! ### State.switchOff -/

@[simp] theorem switchOff_gpr : (s.switchOff).gpr = s.gpr := rfl
@[simp] theorem switchOff_pc : (s.switchOff).pc = s.pc := rfl
@[simp] theorem switchOff_sp : (s.switchOff).sp = s.sp := rfl
@[simp] theorem switchOff_fp : (s.switchOff).fp = s.fp := rfl
@[simp] theorem switchOff_ir : (s.switchOff).ir = s.ir := rfl
@[simp] theorem switchOff_stat : (s.switchOff).stat = s.stat := rfl
@[simp] theorem switchOff_err : (s.switchOff).err = s.err := rfl
@[simp] theorem switchOff_hi : (s.switchOff).hi = s.hi := rfl
@[simp] theorem switchOff_lo : (s.switchOff).lo = s.lo := rfl
@[simp] theorem switchOff_cmpr : (s.switchOff).cmpr = s.cmpr := rfl
@[simp] theorem switchOff_mem : (s.switchOff).mem = s.mem := rfl
@[simp] theorem switchOff_run : (s.switchOff).run = .off := rfl
@[simp] theorem switchOff_cfg : (s.switchOff).cfg = s.cfg := rfl
@[simp] theorem switchOff_statReads : (s.switchOff).statReads = s.statReads := rfl

/-! ### State.withFetchWord -/

@[simp] theorem withFetchWord_gpr (nbits w : Nat) : (s.withFetchWord nbits w).gpr = s.gpr := rfl
@[simp] theorem withFetchWord_pc (nbits w : Nat) : (s.withFetchWord nbits w).pc = s.pc := rfl
@[simp] theorem withFetchWord_sp (nbits w : Nat) : (s.withFetchWord nbits w).sp = s.sp := rfl
@[simp] theorem withFetchWord_fp (nbits w : Nat) : (s.withFetchWord nbits w).fp = s.fp := rfl
@[simp] theorem withFetchWord_ir (nbits w : Nat) : (s.withFetchWord nbits w).ir = s.ir := rfl
@[simp] theorem withFetchWord_stat (nbits w : Nat) : (s.withFetchWord nbits w).stat = s.stat := rfl
@[simp] theorem withFetchWord_err (nbits w : Nat) : (s.withFetchWord nbits w).err = s.err := rfl
@[simp] theorem withFetchWord_hi (nbits w : Nat) : (s.withFetchWord nbits w).hi = s.hi := rfl
@[simp] theorem withFetchWord_lo (nbits w : Nat) : (s.withFetchWord nbits w).lo = s.lo := rfl
@[simp] theorem withFetchWord_cmpr (nbits w : Nat) : (s.withFetchWord nbits w).cmpr = s.cmpr := rfl
@[simp] theorem withFetchWord_mem (nbits w : Nat) : (s.withFetchWord nbits w).mem = s.mem.writeWord s.pc.toNat (BitVec.ofNat 32 (w % 2 ^ nbits)) := rfl
@[simp] theorem withFetchWord_run (nbits w : Nat) : (s.withFetchWord nbits w).run = .on := rfl
@[simp] theorem withFetchWord_cfg (nbits w : Nat) : (s.withFetchWord nbits w).cfg = s.cfg := rfl
@[simp] theorem withFetchWord_statReads (nbits w : Nat) : (s.withFetchWord nbits w).statReads = s.statReads := rfl

/-! ### afterRead: only the count of STAT draws moves -/

@[simp] theorem afterRead_gpr (r : Reg) : (afterRead s r).gpr = s.gpr := by cases r <;> rfl
@[simp] theorem afterRead_pc (r : Reg) : (afterRead s r).pc = s.pc := by cases r <;> rfl
@[simp] theorem afterRead_sp (r : Reg) : (afterRead s r).sp = s.sp := by cases r <;> rfl
@[simp] theorem afterRead_fp (r : Reg) : (afterRead s r).fp = s.fp := by cases r <;> rfl
@[simp] theorem afterRead_ir (r : Reg) : (afterRead s r).ir = s.ir := by cases r <;> rfl
@[simp] theorem afterRead_stat (r : Reg) : (afterRead s r).stat = s.stat := by cases r <;> rfl
@[simp] theorem afterRead_err (r : Reg) : (afterRead s r).err = s.err := by cases r <;> rfl
@[simp] theorem afterRead_hi (r : Reg) : (afterRead s r).hi = s.hi := by cases r <;> rfl
@[simp] theorem afterRead_lo (r : Reg) : (afterRead s r).lo = s.lo := by cases r <;> rfl
@[simp] theorem afterRead_cmpr (r : Reg) : (afterRead s r).cmpr = s.cmpr := by cases r <;> rfl
@[simp] theorem afterRead_mem (r : Reg) : (afterRead s r).mem = s.mem := by cases r <;> rfl
@[simp] theorem afterRead_run (r : Reg) : (afterRead s r).run = s.run := by cases r <;> rfl
@[simp] theorem afterRead_cfg (r : Reg) : (afterRead s r).cfg = s.cfg := by cases r <;> rfl
@[simp] theorem afterRead_statReads (r : Reg) : (afterRead s r).statReads = if r = .stat then s.statReads + 1 else s.statReads := by cases r <;> rfl

/-! ### afterReads -/

@[simp] theorem afterReads_gpr (r1 r2 : Reg) : (afterReads s r1 r2).gpr = s.gpr := by simp [afterReads]
@[simp] theorem afterReads_pc (r1 r2 : Reg) : (afterReads s r1 r2).pc = s.pc := by simp [afterReads]
@[simp] theorem afterReads_sp (r1 r2 : Reg) : (afterReads s r1 r2).sp = s.sp := by simp [afterReads]
@[simp] theorem afterReads_fp (r1 r2 : Reg) : (afterReads s r1 r2).fp = s.fp := by simp [afterReads]
@[simp] theorem afterReads_ir (r1 r2 : Reg) : (afterReads s r1 r2).ir = s.ir := by simp [afterReads]
@[simp] theorem afterReads_stat (r1 r2 : Reg) : (afterReads s r1 r2).stat = s.stat := by simp [afterReads]
@[simp] theorem afterReads_err (r1 r2 : Reg) : (afterReads s r1 r2).err = s.err := by simp [afterReads]
@[simp] theorem afterReads_hi (r1 r2 : Reg) : (afterReads s r1 r2).hi = s.hi := by simp [afterReads]
@[simp] theorem afterReads_lo (r1 r2 : Reg) : (afterReads s r1 r2).lo = s.lo := by simp [afterReads]
@[simp] theorem afterReads_cmpr (r1 r2 : Reg) : (afterReads s r1 r2).cmpr = s.cmpr := by simp [afterReads]
@[simp] theorem afterReads_mem (r1 r2 : Reg) : (afterReads s r1 r2).mem = s.mem := by simp [afterReads]
@[simp] theorem afterReads_run (r1 r2 : Reg) : (afterReads s r1 r2).run = s.run := by simp [afterReads]
@[simp] theorem afterReads_cfg (r1 r2 : Reg) : (afterReads s r1 r2).cfg = s.cfg := by simp [afterReads]

/-! ### State.hostCall: the registers and the memory, and nothing else -/

@[simp] theorem hostCall_gpr : s.hostCall.gpr = s.gpr := rfl
@[simp] theorem hostCall_pc : s.hostCall.pc = s.pc := rfl
@[simp] theorem hostCall_sp : s.hostCall.sp = s.sp := rfl
@[simp] theorem hostCall_fp : s.hostCall.fp = s.fp := rfl
@[simp] theorem hostCall_ir : s.hostCall.ir = s.ir := rfl
@[simp] theorem hostCall_stat : s.hostCall.stat = s.stat := rfl
@[simp] theorem hostCall_err : s.hostCall.err = s.err := rfl
@[simp] theorem hostCall_hi : s.hostCall.hi = s.hi := rfl
@[simp] theorem hostCall_lo : s.hostCall.lo = s.lo := rfl
@[simp] theorem hostCall_cmpr : s.hostCall.cmpr = s.cmpr := rfl
@[simp] theorem hostCall_mem : s.hostCall.mem = s.mem := rfl
@[simp] theorem hostCall_memSize : s.hostCall.memSize = s.cfg.memSize := rfl

/-- An operating system sees of the parameters the memory size alone (10_state.md R51). -/
theorem hostCall_of_cfg (c : Config) (h : c.memSize = s.cfg.memSize) :
    ({ s with cfg := c } : State).hostCall = s.hostCall := by simp [State.hostCall, h]

/-! ### State.served -/

@[simp] theorem served_gpr (h : HostAnswer) : (s.served h).gpr = h.gpr := rfl
@[simp] theorem served_pc (h : HostAnswer) : (s.served h).pc = s.pc := rfl
@[simp] theorem served_sp (h : HostAnswer) : (s.served h).sp = if spValid s h.sp then h.sp else s.sp := rfl
@[simp] theorem served_fp (h : HostAnswer) : (s.served h).fp = h.fp := rfl
@[simp] theorem served_ir (h : HostAnswer) : (s.served h).ir = s.ir := rfl
@[simp] theorem served_stat (h : HostAnswer) : (s.served h).stat = h.stat := rfl
@[simp] theorem served_err (h : HostAnswer) : (s.served h).err = h.err := rfl
@[simp] theorem served_hi (h : HostAnswer) : (s.served h).hi = h.hi := rfl
@[simp] theorem served_lo (h : HostAnswer) : (s.served h).lo = h.lo := rfl
@[simp] theorem served_cmpr (h : HostAnswer) : (s.served h).cmpr = h.cmpr := rfl
@[simp] theorem served_mem (h : HostAnswer) : (s.served h).mem = s.mem.storeCells s.cfg.memSize h.stores := rfl
@[simp] theorem served_run (h : HostAnswer) : (s.served h).run = if h.stop then .off else s.run := rfl
@[simp] theorem served_cfg (h : HostAnswer) : (s.served h).cfg = s.cfg := rfl
@[simp] theorem served_statReads (h : HostAnswer) : (s.served h).statReads = s.statReads := rfl

/-! ### setReg: only the named register moves -/

@[simp] theorem setReg_pc (r : Reg) (v : Word) : (setReg s r v).pc = s.pc := by cases r <;> rfl
@[simp] theorem setReg_sp (r : Reg) (v : Word) : (setReg s r v).sp = if r = .sp then v else s.sp := by cases r <;> rfl
@[simp] theorem setReg_fp (r : Reg) (v : Word) : (setReg s r v).fp = if r = .fp then v else s.fp := by cases r <;> rfl
@[simp] theorem setReg_ir (r : Reg) (v : Word) : (setReg s r v).ir = s.ir := by cases r <;> rfl
@[simp] theorem setReg_stat (r : Reg) (v : Word) : (setReg s r v).stat = if r = .stat then v else s.stat := by cases r <;> rfl
@[simp] theorem setReg_err (r : Reg) (v : Word) : (setReg s r v).err = if r = .err then v else s.err := by cases r <;> rfl
@[simp] theorem setReg_hi (r : Reg) (v : Word) : (setReg s r v).hi = if r = .hi then v else s.hi := by cases r <;> rfl
@[simp] theorem setReg_lo (r : Reg) (v : Word) : (setReg s r v).lo = if r = .lo then v else s.lo := by cases r <;> rfl
@[simp] theorem setReg_cmpr (r : Reg) (v : Word) : (setReg s r v).cmpr = if r = .cmpr then v else s.cmpr := by cases r <;> rfl
@[simp] theorem setReg_mem (r : Reg) (v : Word) : (setReg s r v).mem = s.mem := by cases r <;> rfl
@[simp] theorem setReg_run (r : Reg) (v : Word) : (setReg s r v).run = s.run := by cases r <;> rfl
@[simp] theorem setReg_cfg (r : Reg) (v : Word) : (setReg s r v).cfg = s.cfg := by cases r <;> rfl
@[simp] theorem setReg_statReads (r : Reg) (v : Word) : (setReg s r v).statReads = s.statReads := by cases r <;> rfl

@[simp] theorem setReg_gpr (k : Fin 32) (v : Word) : (setReg s (.gpr k) v).gpr = s.gpr.set k v := rfl

theorem setReg_gpr_of_ne (r : Reg) (v : Word) (k : Fin 32) (h : r ≠ .gpr k) :
    (setReg s r v).gpr.get k = s.gpr.get k := by
  cases r with
  | gpr j =>
    have hj : j.val ≠ k.val := fun e => h (by rw [Fin.ext e])
    simp [setReg, Vector.get_eq_getElem, Vector.getElem_set_ne, hj]
  | _ => rfl

theorem get_set_self (v : Vector Word 32) (k : Fin 32) (w : Word) : (v.set k w).get k = w := by
  simp [Vector.get_eq_getElem]

end Sys2Proof.Machine
end

