-- ==== Sys2Proof/Laws/Ops.lean ====
section
/-! SUPPORT. For each shared operation, once, everything it can do. -/

namespace Sys2Proof.Machine

/-! ### Errors -/

/-- `err_bits` is nonzero for every kind (60_exceptions.md R271). -/
theorem errBits_ne_zero (k : ErrorKind) : Config.errBits k ≠ 0 := by
  intro h
  have h2 := congrArg BitVec.toNat h
  have := (Config.errSeed k).isLt
  simp only [Config.errBits, BitVec.toNat_ofNat] at h2
  simp at h2
  omega

/-- Where `raise` goes on, it left the state alone or signalled one of the two error kinds that are signalled. -/
theorem raise_next (e : MachineError) (s t : State) (h : raise e s = .next t) :
    (∃ v, e = .spRange v ∧ t = s.signal .spRange) ∨
    (∃ r, e = .writeProtected r ∧
      ((s.cfg.wpWrite = .ignore ∧ t = s) ∨ (s.cfg.wpWrite = .error ∧ t = s.signal .writeProtected))) := by
  cases e with
  | spRange v => exact .inl ⟨v, rfl, by simpa [raise] using h.symm⟩
  | writeProtected r =>
    refine .inr ⟨r, rfl, ?_⟩
    simp only [raise] at h
    split at h <;> simp_all
  | _ => simp [raise] at h

/-- Where `raise` stops the machine, the fault leaves the state with ERR signalled and nothing else changed. -/
theorem raise_fault (e : MachineError) (s : State) (f : Fault) (h : raise e s = .fault f) :
    ∃ k, f.stopped = s.faultedBy k := by
  cases e with
  | writeProtected r =>
    simp only [raise] at h
    split at h
    · simp at h
    · simp at h
    · cases h; exact ⟨_, rfl⟩
  | spRange v => simp [raise] at h
  | _ => simp only [raise] at h; cases h; exact ⟨_, rfl⟩

/-- `raise` refuses nothing. -/
theorem raise_not_refused (e : MachineError) (s : State) (r : Refusal) : raise e s ≠ .refused r := by
  cases e <;> simp [raise]
  split <;> simp

/-! ### Register numbers -/

/-- The number of a register (10_state.md R22). -/
def Reg.number : Reg → Nat
  | .zero => 0
  | .gpr k => k.val + 1
  | .pc => 33
  | .sp => 34
  | .fp => 35
  | .ir => 36
  | .stat => 37
  | .err => 38
  | .hi => 39
  | .lo => 40
  | .cmpr => 41

/-- A byte names a register exactly if it is the register's number. -/
theorem regOf_eq_some (n : RegNum) (r : Reg) : regOf n = some r ↔ n.toNat = r.number := by
  unfold regOf
  cases r with
  | gpr k =>
    simp only [Reg.number]
    split <;> simp_all <;> try omega
    constructor
    · rintro ⟨h, rfl⟩; simp; omega
    · intro h; exact ⟨by omega, by ext; simp; omega⟩
  | _ => simp only [Reg.number]; split <;> simp_all

/-- A byte names no register exactly if it is no valid register number (10_state.md R22). -/
theorem regOf_eq_none (n : RegNum) : regOf n = none ↔ n.valid = false := by
  unfold regOf RegNum.valid
  split <;> simp_all
  omega

theorem regOf_isSome (n : RegNum) : (regOf n).isSome = n.valid := by
  cases h : n.valid with
  | false => rw [(regOf_eq_none n).2 h]; rfl
  | true =>
    cases h2 : regOf n with
    | none => rw [(regOf_eq_none n).1 h2] at h; cases h
    | some r => rfl

theorem valid_of_regOf (n : RegNum) (r : Reg) (h : regOf n = some r) : n.valid = true := by
  rw [← regOf_isSome, h]; rfl

/-- A valid register number names a register. -/
theorem regOf_of_valid (n : RegNum) (h : n.valid = true) : ∃ r, regOf n = some r :=
  Option.isSome_iff_exists.1 (by rw [regOf_isSome, h])

@[simp] theorem regOf_zero : regOf 0 = some .zero := rfl
@[simp] theorem regOf_pc : regOf 33 = some .pc := rfl
@[simp] theorem regOf_sp : regOf 34 = some .sp := rfl

/-- `withReg` goes on with the register the byte names. -/
theorem withReg_some (s : State) (n : RegNum) (go : Reg → Out) (r : Reg) (h : regOf n = some r) :
    withReg s n go = go r := by simp [withReg, h]

theorem withRegs2_some (s : State) (x y : RegNum) (go : Reg → Reg → Out) (rx ry : Reg)
    (hx : regOf x = some rx) (hy : regOf y = some ry) : withRegs2 s x y go = go rx ry := by
  simp [withRegs2, withReg, hx, hy]

theorem withRegs3_some (s : State) (x y z : RegNum) (go : Reg → Reg → Reg → Out) (rx ry rz : Reg)
    (hx : regOf x = some rx) (hy : regOf y = some ry) (hz : regOf z = some rz) :
    withRegs3 s x y z go = go rx ry rz := by
  simp [withRegs3, withReg, hx, hy, hz]

/-- `withReg` either goes on or raises `InvalidRegister`, a fault. -/
theorem withReg_cases (s : State) (n : RegNum) (go : Reg → Out) :
    (∃ r, regOf n = some r ∧ withReg s n go = go r) ∨
    (regOf n = none ∧ withReg s n go = .fault (.invalidRegister n (s.faultedBy .invalidRegister))) := by
  cases h : regOf n with
  | none => exact .inr ⟨rfl, by simp [withReg, h, raise]⟩
  | some r => exact .inl ⟨r, rfl, by simp [withReg, h]⟩

theorem withReg_next (s t : State) (n : RegNum) (go : Reg → Out) (h : withReg s n go = .next t) :
    ∃ r, regOf n = some r ∧ go r = .next t := by
  rcases withReg_cases s n go with ⟨r, hr, e⟩ | ⟨_, e⟩
  · exact ⟨r, hr, e ▸ h⟩
  · rw [e] at h; cases h

theorem withRegs2_next (s t : State) (x y : RegNum) (go : Reg → Reg → Out)
    (h : withRegs2 s x y go = .next t) :
    ∃ rx ry, regOf x = some rx ∧ regOf y = some ry ∧ go rx ry = .next t := by
  obtain ⟨rx, hx, h⟩ := withReg_next _ _ _ _ h
  obtain ⟨ry, hy, h⟩ := withReg_next _ _ _ _ h
  exact ⟨rx, ry, hx, hy, h⟩

theorem withRegs3_next (s t : State) (x y z : RegNum) (go : Reg → Reg → Reg → Out)
    (h : withRegs3 s x y z go = .next t) :
    ∃ rx ry rz, regOf x = some rx ∧ regOf y = some ry ∧ regOf z = some rz ∧ go rx ry rz = .next t := by
  obtain ⟨rx, hx, h⟩ := withReg_next _ _ _ _ h
  obtain ⟨ry, hy, h⟩ := withReg_next _ _ _ _ h
  obtain ⟨rz, hz, h⟩ := withReg_next _ _ _ _ h
  exact ⟨rx, ry, rz, hx, hy, hz, h⟩

/-! ### Writing a register -/

/-- Everything a register write that goes on can do (10_state.md R31). -/
theorem writeReg_next (base done t : State) (r : Reg) (v : Word) (h : writeReg base done r v = .next t) :
    (isProtected base r = false ∧ (r = .sp → spValid base v = true) ∧ t = setReg done r v) ∨
    (r = .sp ∧ spValid base v = false ∧ t = base.signal .spRange) ∨
    (isProtected base r = true ∧ base.cfg.wpWrite ≠ .fault ∧ (t = done ∨ t = done.signal .writeProtected)) := by
  unfold writeReg at h
  split at h
  · rename_i hp
    refine .inr (.inr ⟨hp, ?_⟩)
    split at h
    · rename_i hf; simp [raise, hf] at h
    · rename_i hf
      refine ⟨hf, ?_⟩
      rcases raise_next _ _ _ h with ⟨v', e, _⟩ | ⟨r', _, ⟨_, e⟩ | ⟨_, e⟩⟩
      · cases e
      · exact .inl e
      · exact .inr e
  · rename_i hp
    split at h
    · rename_i hs
      exact .inr (.inl ⟨hs.1, hs.2, by simpa [raise] using h.symm⟩)
    · rename_i hs
      refine .inl ⟨by simpa using hp, ?_, by simpa using h.symm⟩
      intro hr
      by_contra hv
      exact hs ⟨hr, by simpa using hv⟩

/-- A register that is not write-protected and takes the value is set. -/
theorem writeReg_set (base done : State) (r : Reg) (v : Word) (hp : isProtected base r = false)
    (hs : r = .sp → spValid base v = true) : writeReg base done r v = .next (setReg done r v) := by
  unfold writeReg
  rw [if_neg (by simp [hp])]
  rw [if_neg]
  rintro ⟨h1, h2⟩
  rw [hs h1] at h2
  cases h2

/-- A register write faults only as `WriteProtected`, leaving `base` with ERR signalled, or as what `done`
raises under the same setting. -/
theorem writeReg_fault (base done : State) (r : Reg) (v : Word) (f : Fault) (hc : done.cfg = base.cfg)
    (h : writeReg base done r v = .fault f) : f = .writeProtected r (base.faultedBy .writeProtected) := by
  unfold writeReg at h
  split at h
  · split at h
    · rename_i hf; simp [raise, hf] at h; exact h.symm
    · rename_i hf
      simp only [raise, hc] at h
      split at h
      · cases h
      · cases h
      · exact absurd (by assumption) hf
  · split at h
    · simp [raise] at h
    · cases h

/-- A register write refuses nothing. -/
theorem writeReg_not_refused (base done : State) (r : Reg) (v : Word) (q : Refusal) :
    writeReg base done r v ≠ .refused q := by
  unfold writeReg
  split
  · split <;> exact raise_not_refused _ _ _
  · split
    · exact raise_not_refused _ _ _
    · simp

/-! ### The operand forms -/

theorem formRRR_next (f : Word → Word → Word) (x y z : RegNum) (s t : State)
    (h : formRRR f x y z s = .next t) :
    ∃ rx ry rz, regOf x = some rx ∧ regOf y = some ry ∧ regOf z = some rz ∧
      writeResult (afterReads s ry rz) rx (f (readReg s ry) (readSecond s ry rz)) = .next t :=
  withRegs3_next _ _ _ _ _ _ h

theorem formRR_next (f : Word → Word) (x y : RegNum) (s t : State) (h : formRR f x y s = .next t) :
    ∃ rx ry, regOf x = some rx ∧ regOf y = some ry ∧
      writeResult (afterRead s ry) rx (f (readReg s ry)) = .next t :=
  withRegs2_next _ _ _ _ _ h

theorem formRN_next (v : Word) (x : RegNum) (s t : State) (h : formRN v x s = .next t) :
    ∃ rx, regOf x = some rx ∧ writeResult s rx v = .next t :=
  withReg_next _ _ _ _ h

theorem formR_next (f : Word → Word) (x : RegNum) (s t : State) (h : formR f x s = .next t) :
    ∃ rx, regOf x = some rx ∧ writeResult (afterRead s rx) rx (f (readReg s rx)) = .next t :=
  withReg_next _ _ _ _ h

theorem formHiLo_next (f : Word → Word → Option (Word × Word)) (x y : RegNum) (s t : State)
    (h : formHiLo f x y s = .next t) :
    ∃ rx ry v, regOf x = some rx ∧ regOf y = some ry ∧ f (readReg s rx) (readSecond s rx ry) = some v ∧
      t = setHiLo (afterReads s rx ry) v := by
  obtain ⟨rx, ry, hx, hy, h⟩ := withRegs2_next _ _ _ _ _ h
  cases hf : f (readReg s rx) (readSecond s rx ry) with
  | none => simp [hf, raise] at h
  | some v => exact ⟨rx, ry, v, hx, hy, hf, by simpa [hf] using h.symm⟩

theorem formHiLoImm_next (f : Word → Option (Word × Word)) (x : RegNum) (s t : State)
    (h : formHiLoImm f x s = .next t) :
    ∃ rx v, regOf x = some rx ∧ f (readReg s rx) = some v ∧ t = setHiLo (afterRead s rx) v := by
  obtain ⟨rx, hx, h⟩ := withReg_next _ _ _ _ h
  cases hf : f (readReg s rx) with
  | none => simp [hf, raise] at h
  | some v => exact ⟨rx, v, hx, hf, by simpa [hf] using h.symm⟩

theorem writeModulo_next (entry s t : State) (rx : Reg) (n d : Word)
    (h : writeModulo entry s rx n d = .next t) :
    ∃ v, divUnsigned n d = some v ∧ writeReg s (setHiLo s v) rx v.2 = .next t := by
  unfold writeModulo at h
  split at h
  · exact ⟨_, by assumption, h⟩
  · simp [raise] at h

/-- The two writes of POP that go on (41_load_store.md R147). -/
theorem popWrites_next (s t : State) (rx : Reg) (v : Word) (h : popWrites s rx v = .next t) :
    (rx = .sp ∧ t = s.signal .spRange) ∨
    (rx = .sp ∧ spValid s (popSp v) = true ∧ t = setReg s .sp (popSp v)) ∨
    (rx ≠ .sp ∧ writeReg s (setReg s .sp (popSp s.sp)) rx v = .next t) := by
  unfold popWrites at h
  split at h
  · rename_i hr
    split at h
    · exact .inl ⟨hr, by simpa [raise] using h.symm⟩
    · split at h
      · exact .inl ⟨hr, by simpa [raise] using h.symm⟩
      · rename_i h2
        exact .inr (.inl ⟨hr, by simpa using h2, by simpa [setReg] using h.symm⟩)
  · exact .inr (.inr ⟨by assumption, h⟩)

/-- A branch goes on in every case (45_branch.md R230). -/
theorem branchIf_eq (c : Bool) (n : Int) (s : State) :
    branchIf c n s = .next (if c then setPc s (branchTarget s.pc n) else s) := by
  cases c <;> rfl

/-- Everything an INT that goes on can do (47_system_io.md R255). -/
theorem execInt_next (n : Imm24) (s t : State) (h : execInt n s = .next t) :
    (s.cfg.intHandler = .identity ∧ t = s) ∨
    (s.cfg.intHandler = .system ∧ t = s.served (Config.osAction n s.hostCall)) := by
  unfold execInt at h
  cases hh : s.cfg.intHandler <;> simp [hh, refuse] at h
  · exact .inl ⟨rfl, h.symm⟩
  · exact .inr ⟨rfl, h.symm⟩

/-- A final state is a machine that is off with an EOP word in IR (40_control.md R131). -/
theorem final_iff (s : State) :
    s.final = true ↔ s.run = .off ∧ byte1 s.ir = 0x04 ∧ 4 ≤ s.pc.toNat ∧
      s.mem.readWord (s.pc.toNat - 4) = s.ir := decide_eq_true_iff

/-! ### The step -/

/-- A step of a machine that is on and whose fetch and decode succeed executes the instruction. -/
theorem step_exec (s : State) (i : Instr) (hr : s.run = .on) (hm : s.inMem s.pc.toNat 4 = true)
    (hd : decode (fetchWord s) = .ok i) : step s = exec i (afterFetch s) := by
  simp [step, cycle, hr, hm, hd]

/-- Everything a step that goes on can be: an instruction executed, or the standing still of a machine that
is off. -/
theorem step_next (s t : State) (h : step s = .next t) :
    (s.run = .off ∧ t = s) ∨
    (s.run = .on ∧ s.inMem s.pc.toNat 4 = true ∧
      ∃ i, decode (fetchWord s) = .ok i ∧ exec i (afterFetch s) = .next t) := by
  unfold step at h
  cases hr : s.run with
  | off => simp [hr] at h; exact .inl ⟨rfl, h.symm⟩
  | faulted => simp [hr] at h
  | on =>
    refine .inr ⟨rfl, ?_⟩
    simp only [hr, cycle] at h
    split at h
    · rename_i hm
      split at h
      · rename_i i hd; exact ⟨hm, i, hd, h⟩
      · simp [raise] at h
    · simp [raise] at h

end Sys2Proof.Machine
end

