-- ==== Sys2Proof/Laws/Exec.lean ====
section
/-! SUPPORT. Everything an instruction that goes on can do, said once: what `exec` answers is one of the ten
shapes of `Effect`. -/

namespace Sys2Proof.Machine

/-- The machine after some draws of STAT. -/
def State.drawn (s : State) (k : Nat) : State := { s with statReads := k }

/-- How the state `t` after instruction `i` relates to the state `s` before it; `k` is the number of STAT draws
by then. -/
inductive Effect (i : Instr) (s : State) (k : Nat) : State → Prop where
  | none : Effect i s k (s.drawn k)
  | off : i = .eop → Effect i s k { s.drawn k with run := .off }
  | jump (p : Word) : .pc ∈ i.implicitDestinations → Effect i s k { s.drawn k with pc := p }
  | compare (v : Word) : .cmpr ∈ i.implicitDestinations → Effect i s k { s.drawn k with cmpr := v }
  | hiLo (v : Word × Word) : .hi ∈ i.implicitDestinations → .lo ∈ i.implicitDestinations →
      Effect i s k (setHiLo (s.drawn k) v)
  | storeByte (x y z : RegNum) (a : Nat) (b : Byte) : i = .sb x y z → i.storedBytes s = some (a, 1) →
      a + 1 ≤ s.cfg.memSize → Effect i s k { s.drawn k with mem := s.mem.write a b }
  | storeWord (x y z : RegNum) (a : Nat) (v : Word) : i = .sw x y z → i.storedBytes s = some (a, 4) →
      a + 4 ≤ s.cfg.memSize → Effect i s k { s.drawn k with mem := s.mem.writeWord a v }
  | push (x : RegNum) (v : Word) : i = .push x → spValid s (pushSp s) = true →
      (pushSp s).toNat + 4 ≤ s.cfg.memSize →
      Effect i s k { s.drawn k with sp := pushSp s, mem := s.mem.writeWord (pushSp s).toNat v }
  | stackRefused : (∃ x, i = .push x ∨ i = .pop x) → Effect i s k ((s.drawn k).signal .spRange)
  | popSp (x : RegNum) (v : Word) : i = .pop x → spValid s v = true →
      Effect i s k { s.drawn k with sp := v }
  | write (n : RegNum) (r : Reg) (done t : State) (v : Word) : i.destination = some n → regOf n = some r →
      (done = s.drawn k ∨
        (∃ u : Word × Word, done = setHiLo (s.drawn k) u ∧
          .hi ∈ i.implicitDestinations ∧ .lo ∈ i.implicitDestinations) ∨
        (∃ u : Word, done = { s.drawn k with sp := u } ∧ .sp ∈ i.implicitDestinations ∧ spValid s u = true)) →
      writeReg (s.drawn k) done r v = .next t → Effect i s k t

/-- A read draws nothing but STAT. -/
theorem afterRead_drawn (s : State) (r : Reg) :
    ∃ k, afterRead s r = s.drawn k ∧ (r ≠ .stat → k = s.statReads) := by
  cases r <;> first | exact ⟨s.statReads, rfl, fun _ => rfl⟩ | exact ⟨_, rfl, fun h => absurd rfl h⟩

theorem afterReads_drawn (s : State) (r1 r2 : Reg) :
    ∃ k, afterReads s r1 r2 = s.drawn k ∧ (r1 ≠ .stat → r2 ≠ .stat → k = s.statReads) := by
  obtain ⟨k1, h1, e1⟩ := afterRead_drawn s r1
  obtain ⟨k2, h2, e2⟩ := afterRead_drawn (s.drawn k1) r2
  exact ⟨k2, by rw [afterReads, h1, h2]; rfl, fun a b => by rw [e2 b, ← e1 a]; rfl⟩

/-- `i`, going on from `s` to `t`, has one of the effects, and draws STAT only where it reads STAT. -/
def Shaped (i : Instr) (s t : State) : Prop :=
  ∃ k, ((∀ n ∈ i.sources, regOf n ≠ some .stat) → k = s.statReads) ∧ Effect i s k t

theorem ne_stat (n : RegNum) (r : Reg) (l : List RegNum) (h : regOf n = some r) (hm : n ∈ l)
    (hn : ∀ n ∈ l, regOf n ≠ some .stat) : r ≠ .stat := fun e => hn n hm (h.trans (congrArg some e))

theorem shaped_none (i : Instr) (s : State) : Shaped i s s := ⟨s.statReads, fun _ => rfl, .none⟩

theorem shaped_write (i : Instr) (s t : State) (n : RegNum) (v : Word) (k : Nat) (r : Reg)
    (hd : i.destination = some n) (hr : regOf n = some r)
    (hk : (∀ n ∈ i.sources, regOf n ≠ some .stat) → k = s.statReads)
    (h : writeResult (s.drawn k) r v = .next t) : Shaped i s t :=
  ⟨k, hk, .write n r _ t v hd hr (.inl rfl) h⟩

theorem shaped_formRRR (i : Instr) (f : Word → Word → Word) (x y z : RegNum) (s t : State)
    (hd : i.destination = some x) (hs : i.sources = [y, z]) (h : formRRR f x y z s = .next t) :
    Shaped i s t := by
  obtain ⟨rx, ry, rz, hx, hy, hz, h⟩ := formRRR_next _ _ _ _ _ _ h
  obtain ⟨k, hk, e⟩ := afterReads_drawn s ry rz
  rw [hk] at h
  exact shaped_write i s t x _ k rx hd hx
    (fun hn => e (ne_stat _ _ _ hy (by simp [hs]) hn) (ne_stat _ _ _ hz (by simp [hs]) hn)) h

theorem shaped_formRR (i : Instr) (f : Word → Word) (x y : RegNum) (s t : State)
    (hd : i.destination = some x) (hs : i.sources = [y]) (h : formRR f x y s = .next t) : Shaped i s t := by
  obtain ⟨rx, ry, hx, hy, h⟩ := formRR_next _ _ _ _ _ h
  obtain ⟨k, hk, e⟩ := afterRead_drawn s ry
  rw [hk] at h
  exact shaped_write i s t x _ k rx hd hx (fun hn => e (ne_stat _ _ _ hy (by simp [hs]) hn)) h

theorem shaped_formRN (i : Instr) (v : Word) (x : RegNum) (s t : State)
    (hd : i.destination = some x) (h : formRN v x s = .next t) : Shaped i s t := by
  obtain ⟨rx, hx, h⟩ := formRN_next _ _ _ _ h
  exact shaped_write i s t x _ s.statReads rx hd hx (fun _ => rfl) h

theorem shaped_formR (i : Instr) (f : Word → Word) (x : RegNum) (s t : State)
    (hd : i.destination = some x) (hs : i.sources = [x]) (h : formR f x s = .next t) : Shaped i s t := by
  obtain ⟨rx, hx, h⟩ := formR_next _ _ _ _ h
  obtain ⟨k, hk, e⟩ := afterRead_drawn s rx
  rw [hk] at h
  exact shaped_write i s t x _ k rx hd hx (fun hn => e (ne_stat _ _ _ hx (by simp [hs]) hn)) h

theorem shaped_formHiLo (i : Instr) (f : Word → Word → Option (Word × Word)) (x y : RegNum) (s t : State)
    (hi : i.implicitDestinations = [.hi, .lo]) (hs : i.sources = [x, y])
    (h : formHiLo f x y s = .next t) : Shaped i s t := by
  obtain ⟨rx, ry, v, hx, hy, _, rfl⟩ := formHiLo_next _ _ _ _ _ h
  obtain ⟨k, hk, e⟩ := afterReads_drawn s rx ry
  exact ⟨k, fun hn => e (ne_stat _ _ _ hx (by simp [hs]) hn) (ne_stat _ _ _ hy (by simp [hs]) hn),
    hk ▸ .hiLo v (by simp [hi]) (by simp [hi])⟩

theorem shaped_formHiLoImm (i : Instr) (f : Word → Option (Word × Word)) (x : RegNum) (s t : State)
    (hi : i.implicitDestinations = [.hi, .lo]) (hs : i.sources = [x])
    (h : formHiLoImm f x s = .next t) : Shaped i s t := by
  obtain ⟨rx, v, hx, _, rfl⟩ := formHiLoImm_next _ _ _ _ h
  obtain ⟨k, hk, e⟩ := afterRead_drawn s rx
  exact ⟨k, fun hn => e (ne_stat _ _ _ hx (by simp [hs]) hn), hk ▸ .hiLo v (by simp [hi]) (by simp [hi])⟩

theorem shaped_writeModulo (i : Instr) (s t : State) (k : Nat) (x : RegNum) (rx : Reg) (n d : Word)
    (hd : i.destination = some x) (hx : regOf x = some rx) (hi : i.implicitDestinations = [.hi, .lo])
    (hk : (∀ n ∈ i.sources, regOf n ≠ some .stat) → k = s.statReads)
    (h : writeModulo s (s.drawn k) rx n d = .next t) : Shaped i s t := by
  obtain ⟨v, _, h⟩ := writeModulo_next _ _ _ _ _ _ h
  exact ⟨k, hk, .write x rx _ t _ hd hx (.inr (.inl ⟨v, rfl, by simp [hi], by simp [hi]⟩)) h⟩

theorem shaped_branchIf (i : Instr) (c : Bool) (n : Int) (s t : State)
    (hi : i.implicitDestinations = [.pc]) (h : branchIf c n s = .next t) : Shaped i s t := by
  rw [branchIf_eq] at h
  cases h
  split
  · exact ⟨s.statReads, fun _ => rfl, .jump _ (by simp [hi])⟩
  · exact shaped_none i s

theorem shaped_lb (x y z : RegNum) (s t : State) (h : execLb x y z s = .next t) :
    Shaped (.lb x y z) s t := by
  obtain ⟨rx, ry, rz, hx, hy, hz, h⟩ := withRegs3_next _ _ _ _ _ _ h
  dsimp only at h
  split at h
  · obtain ⟨k1, hk1, e1⟩ := afterReads_drawn s ry rz
    obtain ⟨k, hk, e⟩ := afterRead_drawn (s.drawn k1) rx
    rw [hk1, hk] at h
    refine shaped_write _ s t x _ k rx rfl hx (fun hn => ?_) h
    rw [e (ne_stat _ _ _ hx (by simp [Instr.sources]) hn),
      ← e1 (ne_stat _ _ _ hy (by simp [Instr.sources]) hn) (ne_stat _ _ _ hz (by simp [Instr.sources]) hn)]
    rfl
  · simp [raise] at h

theorem shaped_lw (x y z : RegNum) (s t : State) (h : execLw x y z s = .next t) :
    Shaped (.lw x y z) s t := by
  obtain ⟨rx, ry, rz, hx, hy, hz, h⟩ := withRegs3_next _ _ _ _ _ _ h
  dsimp only at h
  split at h
  · obtain ⟨k, hk, e⟩ := afterReads_drawn s ry rz
    rw [hk] at h
    exact shaped_write _ s t x _ k rx rfl hx
      (fun hn => e (ne_stat _ _ _ hy (by simp [Instr.sources]) hn) (ne_stat _ _ _ hz (by simp [Instr.sources]) hn)) h
  · simp [raise] at h

theorem shaped_sb (x y z : RegNum) (s t : State) (h : execSb x y z s = .next t) :
    Shaped (.sb x y z) s t := by
  obtain ⟨rx, ry, rz, hx, hy, hz, h⟩ := withRegs3_next _ _ _ _ _ _ h
  dsimp only at h
  split at h
  · rename_i hm
    obtain ⟨k1, hk1, e1⟩ := afterReads_drawn s ry rz
    obtain ⟨k, hk, e⟩ := afterRead_drawn (s.drawn k1) rx
    rw [hk1, hk] at h
    cases h
    refine ⟨k, fun hn => ?_, .storeByte x y z (effAddr s ry rz) _ rfl ?_ (by simpa [State.inMem] using hm)⟩
    · rw [e (ne_stat _ _ _ hx (by simp [Instr.sources]) hn),
        ← e1 (ne_stat _ _ _ hy (by simp [Instr.sources]) hn) (ne_stat _ _ _ hz (by simp [Instr.sources]) hn)]
      rfl
    · simp [Instr.storedBytes, hy, hz]
  · simp [raise] at h

theorem shaped_sw (x y z : RegNum) (s t : State) (h : execSw x y z s = .next t) :
    Shaped (.sw x y z) s t := by
  obtain ⟨rx, ry, rz, hx, hy, hz, h⟩ := withRegs3_next _ _ _ _ _ _ h
  dsimp only at h
  split at h
  · rename_i hm
    obtain ⟨k1, hk1, e1⟩ := afterReads_drawn s ry rz
    obtain ⟨k, hk, e⟩ := afterRead_drawn (s.drawn k1) rx
    rw [hk1, hk] at h
    cases h
    refine ⟨k, fun hn => ?_, .storeWord x y z (effAddr s ry rz) _ rfl ?_ (by simpa [State.inMem] using hm)⟩
    · rw [e (ne_stat _ _ _ hx (by simp [Instr.sources]) hn),
        ← e1 (ne_stat _ _ _ hy (by simp [Instr.sources]) hn) (ne_stat _ _ _ hz (by simp [Instr.sources]) hn)]
      rfl
    · simp [Instr.storedBytes, hy, hz]
  · simp [raise] at h

theorem shaped_push (x : RegNum) (s t : State) (h : execPush x s = .next t) : Shaped (.push x) s t := by
  obtain ⟨rx, hx, h⟩ := withReg_next _ _ _ _ h
  dsimp only at h
  split at h
  · cases h
    exact ⟨s.statReads, fun _ => rfl, .stackRefused ⟨x, .inl rfl⟩⟩
  · rename_i hv
    split at h
    · rename_i hm
      obtain ⟨k, hk, e⟩ := afterRead_drawn { s with sp := pushSp s } rx
      rw [hk] at h
      cases h
      exact ⟨k, fun hn => e (ne_stat _ _ _ hx (by simp [Instr.sources]) hn),
        .push x _ rfl (by simpa using fun h => hv (.inr h)) (by simpa [State.inMem] using hm)⟩
    · simp [raise] at h

theorem shaped_pop (x : RegNum) (s t : State) (h : execPop x s = .next t) :
    Shaped (.pop x) s t := by
  obtain ⟨rx, hx, h⟩ := withReg_next _ _ _ _ h
  dsimp only at h
  have refused : Shaped (.pop x) s (s.signal .spRange) :=
    ⟨s.statReads, fun _ => rfl, .stackRefused ⟨x, .inr rfl⟩⟩
  split at h
  · split at h
    · cases h; exact refused
    · rename_i hm
      rcases popWrites_next _ _ _ _ h with ⟨_, rfl⟩ | ⟨_, hv, rfl⟩ | ⟨hr, h⟩
      · exact refused
      · exact ⟨s.statReads, fun _ => rfl, .popSp x _ rfl hv⟩
      · refine ⟨s.statReads, fun _ => rfl, .write x rx _ t _ rfl hx (.inr (.inr ⟨popSp s.sp, rfl, ?_, ?_⟩)) h⟩
        · simp [Instr.implicitDestinations]
        · simp [spValid, popSp]
          omega
  · simp [raise] at h

/-- Everything an instruction that goes on can do. -/
theorem exec_shaped (i : Instr) (s t : State) (hi : ∀ n, i ≠ .int n)
    (h : exec i s = .next t) : Shaped i s t := by
  cases i
  case nop => cases h; exact shaped_none _ _
  case eop => cases h; exact ⟨s.statReads, fun _ => rfl, .off rfl⟩
  case lb => exact shaped_lb _ _ _ _ _ h
  case lw => exact shaped_lw _ _ _ _ _ h
  case sb => exact shaped_sb _ _ _ _ _ h
  case sw => exact shaped_sw _ _ _ _ _ h
  case push => exact shaped_push _ _ _ h
  case pop => exact shaped_pop _ _ _ h
  case mul => rw [exec, execMul] at h; exact shaped_formHiLo _ _ _ _ _ _ rfl rfl h
  case mulu => rw [exec, execMulu] at h; exact shaped_formHiLo _ _ _ _ _ _ rfl rfl h
  case muli => rw [exec, execMuli] at h; exact shaped_formHiLoImm _ _ _ _ _ rfl rfl h
  case div => rw [exec, execDiv] at h; exact shaped_formHiLo _ _ _ _ _ _ rfl rfl h
  case divu => rw [exec, execDivu] at h; exact shaped_formHiLo _ _ _ _ _ _ rfl rfl h
  case divi => rw [exec, execDivi] at h; exact shaped_formHiLoImm _ _ _ _ _ rfl rfl h
  case mod x y z =>
    obtain ⟨rx, ry, rz, hx, hy, hz, h⟩ := withRegs3_next _ _ _ _ _ _ h
    obtain ⟨k, hk, e⟩ := afterReads_drawn s ry rz
    rw [hk] at h
    exact shaped_writeModulo _ s t k x rx _ _ rfl hx rfl
      (fun hn => e (ne_stat _ _ _ hy (by simp [Instr.sources]) hn) (ne_stat _ _ _ hz (by simp [Instr.sources]) hn)) h
  case modi x y n =>
    obtain ⟨rx, ry, hx, hy, h⟩ := withRegs2_next _ _ _ _ _ h
    obtain ⟨k, hk, e⟩ := afterRead_drawn s ry
    rw [hk] at h
    exact shaped_writeModulo _ s t k x rx _ _ rfl hx rfl
      (fun hn => e (ne_stat _ _ _ hy (by simp [Instr.sources]) hn)) h
  case cmp x y =>
    obtain ⟨rx, ry, hx, hy, h⟩ := withRegs2_next _ _ _ _ _ h
    obtain ⟨k, hk, e⟩ := afterReads_drawn s rx ry
    rw [hk] at h
    cases h
    exact ⟨k, fun hn => e (ne_stat _ _ _ hx (by simp [Instr.sources]) hn)
      (ne_stat _ _ _ hy (by simp [Instr.sources]) hn), .compare _ (by simp [Instr.implicitDestinations])⟩
  case cmpu x y =>
    obtain ⟨rx, ry, hx, hy, h⟩ := withRegs2_next _ _ _ _ _ h
    obtain ⟨k, hk, e⟩ := afterReads_drawn s rx ry
    rw [hk] at h
    cases h
    exact ⟨k, fun hn => e (ne_stat _ _ _ hx (by simp [Instr.sources]) hn)
      (ne_stat _ _ _ hy (by simp [Instr.sources]) hn), .compare _ (by simp [Instr.implicitDestinations])⟩
  case cmpi x n =>
    obtain ⟨rx, hx, h⟩ := withReg_next _ _ _ _ h
    obtain ⟨k, hk, e⟩ := afterRead_drawn s rx
    rw [hk] at h
    cases h
    exact ⟨k, fun hn => e (ne_stat _ _ _ hx (by simp [Instr.sources]) hn),
      .compare _ (by simp [Instr.implicitDestinations])⟩
  case go x =>
    obtain ⟨rx, hx, h⟩ := withReg_next _ _ _ _ h
    obtain ⟨k, hk, e⟩ := afterRead_drawn s rx
    rw [hk] at h
    cases h
    exact ⟨k, fun hn => e (ne_stat _ _ _ hx (by simp [Instr.sources]) hn),
      .jump _ (by simp [Instr.implicitDestinations])⟩
  case be => rw [exec, execBe] at h; exact shaped_branchIf _ _ _ _ _ rfl h
  case bne => rw [exec, execBne] at h; exact shaped_branchIf _ _ _ _ _ rfl h
  case bl => rw [exec, execBl] at h; exact shaped_branchIf _ _ _ _ _ rfl h
  case ble => rw [exec, execBle] at h; exact shaped_branchIf _ _ _ _ _ rfl h
  case bg => rw [exec, execBg] at h; exact shaped_branchIf _ _ _ _ _ rfl h
  case bge => rw [exec, execBge] at h; exact shaped_branchIf _ _ _ _ _ rfl h
  case jmp => rw [exec, execJmp] at h; exact shaped_branchIf _ _ _ _ _ rfl h
  case call => simp [exec, execCall, refuse] at h
  case ret => simp [exec, execRet, refuse] at h
  case int n => exact absurd rfl (hi n)
  case inp => simp [exec, execIn, refuse] at h
  case out => simp [exec, execOut, refuse] at h
  case set => rw [exec, execSet] at h; exact shaped_formRN _ _ _ _ _ rfl h
  case noti => rw [exec, execNoti] at h; exact shaped_formRN _ _ _ _ _ rfl h
  case inc => rw [exec, execInc] at h; exact shaped_formR _ _ _ _ _ rfl rfl h
  case dec => rw [exec, execDec] at h; exact shaped_formR _ _ _ _ _ rfl rfl h
  case add => rw [exec, execAdd] at h; exact shaped_formRRR _ _ _ _ _ _ _ rfl rfl h
  case addu => rw [exec, execAddu] at h; exact shaped_formRRR _ _ _ _ _ _ _ rfl rfl h
  case sub => rw [exec, execSub] at h; exact shaped_formRRR _ _ _ _ _ _ _ rfl rfl h
  case subu => rw [exec, execSubu] at h; exact shaped_formRRR _ _ _ _ _ _ _ rfl rfl h
  case and => rw [exec, execAnd] at h; exact shaped_formRRR _ _ _ _ _ _ _ rfl rfl h
  case or => rw [exec, execOr] at h; exact shaped_formRRR _ _ _ _ _ _ _ rfl rfl h
  case xor => rw [exec, execXor] at h; exact shaped_formRRR _ _ _ _ _ _ _ rfl rfl h
  case nand => rw [exec, execNand] at h; exact shaped_formRRR _ _ _ _ _ _ _ rfl rfl h
  case nor => rw [exec, execNor] at h; exact shaped_formRRR _ _ _ _ _ _ _ rfl rfl h
  case shl => rw [exec, execShl] at h; exact shaped_formRRR _ _ _ _ _ _ _ rfl rfl h
  case shr => rw [exec, execShr] at h; exact shaped_formRRR _ _ _ _ _ _ _ rfl rfl h
  case shra => rw [exec, execShra] at h; exact shaped_formRRR _ _ _ _ _ _ _ rfl rfl h
  case rotl => rw [exec, execRotl] at h; exact shaped_formRRR _ _ _ _ _ _ _ rfl rfl h
  case rotr => rw [exec, execRotr] at h; exact shaped_formRRR _ _ _ _ _ _ _ rfl rfl h
  case cp => rw [exec, execCp] at h; exact shaped_formRR _ _ _ _ _ _ rfl rfl h
  case addi => rw [exec, execAddi] at h; exact shaped_formRR _ _ _ _ _ _ rfl rfl h
  case subi => rw [exec, execSubi] at h; exact shaped_formRR _ _ _ _ _ _ rfl rfl h
  case abs => rw [exec, execAbs] at h; exact shaped_formRR _ _ _ _ _ _ rfl rfl h
  case neg => rw [exec, execNeg] at h; exact shaped_formRR _ _ _ _ _ _ rfl rfl h
  case andi => rw [exec, execAndi] at h; exact shaped_formRR _ _ _ _ _ _ rfl rfl h
  case ori => rw [exec, execOri] at h; exact shaped_formRR _ _ _ _ _ _ rfl rfl h
  case xori => rw [exec, execXori] at h; exact shaped_formRR _ _ _ _ _ _ rfl rfl h
  case not => rw [exec, execNot] at h; exact shaped_formRR _ _ _ _ _ _ rfl rfl h
  case nandi => rw [exec, execNandi] at h; exact shaped_formRR _ _ _ _ _ _ rfl rfl h
  case nori => rw [exec, execNori] at h; exact shaped_formRR _ _ _ _ _ _ rfl rfl h
  case shli => rw [exec, execShli] at h; exact shaped_formRR _ _ _ _ _ _ rfl rfl h
  case shri => rw [exec, execShri] at h; exact shaped_formRR _ _ _ _ _ _ rfl rfl h
  case shrai => rw [exec, execShrai] at h; exact shaped_formRR _ _ _ _ _ _ rfl rfl h
  case rotli => rw [exec, execRotli] at h; exact shaped_formRR _ _ _ _ _ _ rfl rfl h
  case rotri => rw [exec, execRotri] at h; exact shaped_formRR _ _ _ _ _ _ rfl rfl h

end Sys2Proof.Machine
end

