-- ==== Sys2Proof/Laws/PerInstr.lean ====
section
/-! SUPPORT. Facts proved for every instruction, one lemma per constructor. -/

namespace Sys2Proof.Laws

/-- The first byte of an instruction's word is its opcode, and nothing outside the bits its format evaluates
is set (30_encoding.md R91, R100, R111). -/
def OpcodeByte.Statement (i : Instr) : Prop :=
  byte1 (encode i) = i.opcode ∧ encode i &&& ~~~i.usedBits = 0

theorem opcodeByte_of_operands (i : Instr)
    (h : joinBytes i.opcode i.operands.1 i.operands.2.1 i.operands.2.2 &&& ~~~i.usedBits = 0) :
    OpcodeByte.Statement i :=
  ⟨by simp [encode], h⟩

theorem unused_three (a : Byte) : joinBytes a 0 0 0 &&& ~~~(0xFF000000 : Word) = 0 := by
  apply BitVec.eq_of_getLsbD_eq; intro i hi
  simp only [joinBytes, BitVec.getLsbD_and, BitVec.getLsbD_append]
  interval_cases i <;> simp

theorem unused_two (a b : Byte) : joinBytes a b 0 0 &&& ~~~(0xFFFF0000 : Word) = 0 := by
  apply BitVec.eq_of_getLsbD_eq; intro i hi
  simp only [joinBytes, BitVec.getLsbD_and, BitVec.getLsbD_append]
  interval_cases i <;> simp

theorem unused_one (a b c : Byte) : joinBytes a b c 0 &&& ~~~(0xFFFFFF00 : Word) = 0 := by
  apply BitVec.eq_of_getLsbD_eq; intro i hi
  simp only [joinBytes, BitVec.getLsbD_and, BitVec.getLsbD_append]
  interval_cases i <;> simp

theorem unused_none (w : Word) : w &&& ~~~(0xFFFFFFFF : Word) = 0 := by
  simp

theorem OpcodeByte.nop : OpcodeByte.Statement .nop :=
  opcodeByte_of_operands _ (unused_three _)

theorem OpcodeByte.eop : OpcodeByte.Statement .eop :=
  opcodeByte_of_operands _ (unused_three _)

theorem OpcodeByte.set (x : RegNum) (n : Imm16) : OpcodeByte.Statement (.set x n) :=
  opcodeByte_of_operands _ (unused_none _)

theorem OpcodeByte.cp (x y : RegNum) : OpcodeByte.Statement (.cp x y) :=
  opcodeByte_of_operands _ (unused_one _ _ _)

theorem OpcodeByte.lb (x y z : RegNum) : OpcodeByte.Statement (.lb x y z) :=
  opcodeByte_of_operands _ (unused_none _)

theorem OpcodeByte.lw (x y z : RegNum) : OpcodeByte.Statement (.lw x y z) :=
  opcodeByte_of_operands _ (unused_none _)

theorem OpcodeByte.sb (x y z : RegNum) : OpcodeByte.Statement (.sb x y z) :=
  opcodeByte_of_operands _ (unused_none _)

theorem OpcodeByte.sw (x y z : RegNum) : OpcodeByte.Statement (.sw x y z) :=
  opcodeByte_of_operands _ (unused_none _)

theorem OpcodeByte.push (x : RegNum) : OpcodeByte.Statement (.push x) :=
  opcodeByte_of_operands _ (unused_two _ _)

theorem OpcodeByte.pop (x : RegNum) : OpcodeByte.Statement (.pop x) :=
  opcodeByte_of_operands _ (unused_two _ _)

theorem OpcodeByte.add (x y z : RegNum) : OpcodeByte.Statement (.add x y z) :=
  opcodeByte_of_operands _ (unused_none _)

theorem OpcodeByte.addu (x y z : RegNum) : OpcodeByte.Statement (.addu x y z) :=
  opcodeByte_of_operands _ (unused_none _)

theorem OpcodeByte.addi (x y : RegNum) (n : Imm8) : OpcodeByte.Statement (.addi x y n) :=
  opcodeByte_of_operands _ (unused_none _)

theorem OpcodeByte.sub (x y z : RegNum) : OpcodeByte.Statement (.sub x y z) :=
  opcodeByte_of_operands _ (unused_none _)

theorem OpcodeByte.subu (x y z : RegNum) : OpcodeByte.Statement (.subu x y z) :=
  opcodeByte_of_operands _ (unused_none _)

theorem OpcodeByte.subi (x y : RegNum) (n : Imm8) : OpcodeByte.Statement (.subi x y n) :=
  opcodeByte_of_operands _ (unused_none _)

theorem OpcodeByte.mul (x y : RegNum) : OpcodeByte.Statement (.mul x y) :=
  opcodeByte_of_operands _ (unused_one _ _ _)

theorem OpcodeByte.mulu (x y : RegNum) : OpcodeByte.Statement (.mulu x y) :=
  opcodeByte_of_operands _ (unused_one _ _ _)

theorem OpcodeByte.muli (x : RegNum) (n : Imm16) : OpcodeByte.Statement (.muli x n) :=
  opcodeByte_of_operands _ (unused_none _)

theorem OpcodeByte.div (x y : RegNum) : OpcodeByte.Statement (.div x y) :=
  opcodeByte_of_operands _ (unused_one _ _ _)

theorem OpcodeByte.divu (x y : RegNum) : OpcodeByte.Statement (.divu x y) :=
  opcodeByte_of_operands _ (unused_one _ _ _)

theorem OpcodeByte.divi (x : RegNum) (n : Imm16) : OpcodeByte.Statement (.divi x n) :=
  opcodeByte_of_operands _ (unused_none _)

theorem OpcodeByte.abs (x y : RegNum) : OpcodeByte.Statement (.abs x y) :=
  opcodeByte_of_operands _ (unused_one _ _ _)

theorem OpcodeByte.neg (x y : RegNum) : OpcodeByte.Statement (.neg x y) :=
  opcodeByte_of_operands _ (unused_one _ _ _)

theorem OpcodeByte.inc (x : RegNum) : OpcodeByte.Statement (.inc x) :=
  opcodeByte_of_operands _ (unused_two _ _)

theorem OpcodeByte.dec (x : RegNum) : OpcodeByte.Statement (.dec x) :=
  opcodeByte_of_operands _ (unused_two _ _)

theorem OpcodeByte.mod (x y z : RegNum) : OpcodeByte.Statement (.mod x y z) :=
  opcodeByte_of_operands _ (unused_none _)

theorem OpcodeByte.modi (x y : RegNum) (n : Imm8) : OpcodeByte.Statement (.modi x y n) :=
  opcodeByte_of_operands _ (unused_none _)

theorem OpcodeByte.and (x y z : RegNum) : OpcodeByte.Statement (.and x y z) :=
  opcodeByte_of_operands _ (unused_none _)

theorem OpcodeByte.andi (x y : RegNum) (n : Imm8) : OpcodeByte.Statement (.andi x y n) :=
  opcodeByte_of_operands _ (unused_none _)

theorem OpcodeByte.or (x y z : RegNum) : OpcodeByte.Statement (.or x y z) :=
  opcodeByte_of_operands _ (unused_none _)

theorem OpcodeByte.ori (x y : RegNum) (n : Imm8) : OpcodeByte.Statement (.ori x y n) :=
  opcodeByte_of_operands _ (unused_none _)

theorem OpcodeByte.xor (x y z : RegNum) : OpcodeByte.Statement (.xor x y z) :=
  opcodeByte_of_operands _ (unused_none _)

theorem OpcodeByte.xori (x y : RegNum) (n : Imm8) : OpcodeByte.Statement (.xori x y n) :=
  opcodeByte_of_operands _ (unused_none _)

theorem OpcodeByte.not (x y : RegNum) : OpcodeByte.Statement (.not x y) :=
  opcodeByte_of_operands _ (unused_one _ _ _)

theorem OpcodeByte.noti (x : RegNum) (n : Imm16) : OpcodeByte.Statement (.noti x n) :=
  opcodeByte_of_operands _ (unused_none _)

theorem OpcodeByte.nand (x y z : RegNum) : OpcodeByte.Statement (.nand x y z) :=
  opcodeByte_of_operands _ (unused_none _)

theorem OpcodeByte.nandi (x y : RegNum) (n : Imm8) : OpcodeByte.Statement (.nandi x y n) :=
  opcodeByte_of_operands _ (unused_none _)

theorem OpcodeByte.nor (x y z : RegNum) : OpcodeByte.Statement (.nor x y z) :=
  opcodeByte_of_operands _ (unused_none _)

theorem OpcodeByte.nori (x y : RegNum) (n : Imm8) : OpcodeByte.Statement (.nori x y n) :=
  opcodeByte_of_operands _ (unused_none _)

theorem OpcodeByte.shl (x y z : RegNum) : OpcodeByte.Statement (.shl x y z) :=
  opcodeByte_of_operands _ (unused_none _)

theorem OpcodeByte.shli (x y : RegNum) (n : Imm8) : OpcodeByte.Statement (.shli x y n) :=
  opcodeByte_of_operands _ (unused_none _)

theorem OpcodeByte.shr (x y z : RegNum) : OpcodeByte.Statement (.shr x y z) :=
  opcodeByte_of_operands _ (unused_none _)

theorem OpcodeByte.shri (x y : RegNum) (n : Imm8) : OpcodeByte.Statement (.shri x y n) :=
  opcodeByte_of_operands _ (unused_none _)

theorem OpcodeByte.shra (x y z : RegNum) : OpcodeByte.Statement (.shra x y z) :=
  opcodeByte_of_operands _ (unused_none _)

theorem OpcodeByte.shrai (x y : RegNum) (n : Imm8) : OpcodeByte.Statement (.shrai x y n) :=
  opcodeByte_of_operands _ (unused_none _)

theorem OpcodeByte.rotl (x y z : RegNum) : OpcodeByte.Statement (.rotl x y z) :=
  opcodeByte_of_operands _ (unused_none _)

theorem OpcodeByte.rotli (x y : RegNum) (n : Imm8) : OpcodeByte.Statement (.rotli x y n) :=
  opcodeByte_of_operands _ (unused_none _)

theorem OpcodeByte.rotr (x y z : RegNum) : OpcodeByte.Statement (.rotr x y z) :=
  opcodeByte_of_operands _ (unused_none _)

theorem OpcodeByte.rotri (x y : RegNum) (n : Imm8) : OpcodeByte.Statement (.rotri x y n) :=
  opcodeByte_of_operands _ (unused_none _)

theorem OpcodeByte.cmp (x y : RegNum) : OpcodeByte.Statement (.cmp x y) :=
  opcodeByte_of_operands _ (unused_one _ _ _)

theorem OpcodeByte.cmpu (x y : RegNum) : OpcodeByte.Statement (.cmpu x y) :=
  opcodeByte_of_operands _ (unused_one _ _ _)

theorem OpcodeByte.cmpi (x : RegNum) (n : Imm16) : OpcodeByte.Statement (.cmpi x n) :=
  opcodeByte_of_operands _ (unused_none _)

theorem OpcodeByte.be (n : Imm24) : OpcodeByte.Statement (.be n) :=
  opcodeByte_of_operands _ (unused_none _)

theorem OpcodeByte.bne (n : Imm24) : OpcodeByte.Statement (.bne n) :=
  opcodeByte_of_operands _ (unused_none _)

theorem OpcodeByte.bl (n : Imm24) : OpcodeByte.Statement (.bl n) :=
  opcodeByte_of_operands _ (unused_none _)

theorem OpcodeByte.ble (n : Imm24) : OpcodeByte.Statement (.ble n) :=
  opcodeByte_of_operands _ (unused_none _)

theorem OpcodeByte.bg (n : Imm24) : OpcodeByte.Statement (.bg n) :=
  opcodeByte_of_operands _ (unused_none _)

theorem OpcodeByte.bge (n : Imm24) : OpcodeByte.Statement (.bge n) :=
  opcodeByte_of_operands _ (unused_none _)

theorem OpcodeByte.jmp (n : Imm24) : OpcodeByte.Statement (.jmp n) :=
  opcodeByte_of_operands _ (unused_none _)

theorem OpcodeByte.go (x : RegNum) : OpcodeByte.Statement (.go x) :=
  opcodeByte_of_operands _ (unused_two _ _)

theorem OpcodeByte.call (n : Imm24) : OpcodeByte.Statement (.call n) :=
  opcodeByte_of_operands _ (unused_none _)

theorem OpcodeByte.ret : OpcodeByte.Statement .ret :=
  opcodeByte_of_operands _ (unused_three _)

theorem OpcodeByte.int (n : Imm24) : OpcodeByte.Statement (.int n) :=
  opcodeByte_of_operands _ (unused_none _)

theorem OpcodeByte.inp : OpcodeByte.Statement .inp :=
  opcodeByte_of_operands _ (unused_three _)

theorem OpcodeByte.out : OpcodeByte.Statement .out :=
  opcodeByte_of_operands _ (unused_three _)

end Sys2Proof.Laws
end

