-- ==== Sys2Proof/Tests/Slice0.lean ====
section
/-! SUPPORT. Tests: the well-formedness smoke test, the decoding of every constructor from words written out of
30_encoding.md, single steps from 95_test_vectors.md, and a witness for every obligation that has hypotheses. -/

open Sys2Proof Sys2Proof.Machine Sys2Proof.Claim

namespace Sys2Proof.Tests

/-! ### Helpers -/

/-- The machine after boot with some registers set: pairs of a register number and a content. -/
def boot : List (RegNum × Word) → State
  | [] => State.reset
  | (n, v) :: rest =>
    match regOf n with
    | some r => setReg (boot rest) r v
    | none => boot rest

/-- Bytes set in memory. -/
def withBytes (s : State) (a : Nat) (bs : List Byte) : State := { s with mem := s.mem.load a bs }

/-- The machine with the program counter at `a`. -/
def atPc (s : State) (a : Word) : State := { s with pc := a }

/-- The machine under another `WP_WRITE` and `STAT_WP`. -/
def under (s : State) (p : WpWrite) (q : Bool) : State := { s with cfg := { s.cfg with wpWrite := p, statWp := q } }

/-- The machine under another `int_handler`. -/
def served (s : State) (h : IntHandler) : State := { s with cfg := { s.cfg with intHandler := h } }

/-- Register content by number. -/
def x (s : State) (n : RegNum) : Word :=
  match regOf n with
  | some r => readReg s r
  | none => 0

/-- The step of `s` with the word `w` at its PC goes on to a state that satisfies `p`. -/
def goes (w : Word) (s : State) (p : State → Bool) : Bool :=
  match step (s.withFetchWord 32 w.toNat) with
  | .next t => p t
  | _ => false

/-- The step of `s` with the word `w` at its PC faults, and the fault satisfies `p`. -/
def faults (w : Word) (s : State) (p : Fault → Bool) : Bool :=
  match step (s.withFetchWord 32 w.toNat) with
  | .fault f => p f
  | _ => false

/-- The step of `s` with the word `w` at its PC is refused as `r`. -/
def refuses (w : Word) (s : State) (r : Refusal) : Bool :=
  match step (s.withFetchWord 32 w.toNat) with
  | .refused q => decide (q = r)
  | _ => false

/-- An outcome that goes on. -/
def isNext : Out → Bool
  | .next _ => true
  | _ => false

/-- An outcome that is a fault. -/
def isFault : Out → Bool
  | .fault _ => true
  | _ => false

/-! ### WellFormed refuses each kind of ill-formed term -/

theorem test_wf_accepts_41 : WellFormed (.cp 41 0) = true := by decide
theorem test_wf_first_register : WellFormed (.cp 42 0) = false := by decide
theorem test_wf_second_register : WellFormed (.cp 0 255) = false := by decide
theorem test_wf_third_register : WellFormed (.add 1 2 42) = false := by decide
theorem test_wf_no_register : WellFormed (.be 0xFFFFFF) = true := by decide

/-! ### Decoding: every constructor, from words written out of 30_encoding.md R91 to R111 -/

theorem test_decode_control :
    decode 0x00ABCDEF = .ok (.nop) ∧
    decode 0x04FFFFFF = .ok (.eop) :=
  ⟨rfl, rfl⟩

theorem test_decode_load_store :
    decode 0x1002FFFD = .ok (.set 2 0xFFFD) ∧
    decode 0x110201EE = .ok (.cp 2 1) ∧
    decode 0x12030102 = .ok (.lb 3 1 2) ∧
    decode 0x13030102 = .ok (.lw 3 1 2) ∧
    decode 0x14020100 = .ok (.sb 2 1 0) ∧
    decode 0x15020100 = .ok (.sw 2 1 0) ∧
    decode 0x1801EEEE = .ok (.push 1) ∧
    decode 0x1922EEEE = .ok (.pop 34) :=
  ⟨rfl, rfl, rfl, rfl, rfl, rfl, rfl, rfl⟩

theorem test_decode_sum :
    decode 0x30030102 = .ok (.add 3 1 2) ∧
    decode 0x31030102 = .ok (.addu 3 1 2) ∧
    decode 0x320202FD = .ok (.addi 2 2 0xFD) ∧
    decode 0x33030102 = .ok (.sub 3 1 2) ∧
    decode 0x34030102 = .ok (.subu 3 1 2) ∧
    decode 0x3502011E = .ok (.subi 2 1 30) :=
  ⟨rfl, rfl, rfl, rfl, rfl, rfl⟩

theorem test_decode_product :
    decode 0x380102EE = .ok (.mul 1 2) ∧
    decode 0x390102EE = .ok (.mulu 1 2) ∧
    decode 0x3A01FFFD = .ok (.muli 1 0xFFFD) ∧
    decode 0x3B0102EE = .ok (.div 1 2) ∧
    decode 0x3C0102EE = .ok (.divu 1 2) ∧
    decode 0x3D010003 = .ok (.divi 1 3) :=
  ⟨rfl, rfl, rfl, rfl, rfl, rfl⟩

theorem test_decode_unary :
    decode 0x400102EE = .ok (.abs 1 2) ∧
    decode 0x410102EE = .ok (.neg 1 2) ∧
    decode 0x4201EEEE = .ok (.inc 1) ∧
    decode 0x4301EEEE = .ok (.dec 1) ∧
    decode 0x48010203 = .ok (.mod 1 2 3) ∧
    decode 0x490102FF = .ok (.modi 1 2 255) :=
  ⟨rfl, rfl, rfl, rfl, rfl, rfl⟩

theorem test_decode_logic :
    decode 0x50010203 = .ok (.and 1 2 3) ∧
    decode 0x51020101 = .ok (.andi 2 1 1) ∧
    decode 0x52010203 = .ok (.or 1 2 3) ∧
    decode 0x53010280 = .ok (.ori 1 2 0x80) ∧
    decode 0x54010203 = .ok (.xor 1 2 3) ∧
    decode 0x550102FF = .ok (.xori 1 2 0xFF) ∧
    decode 0x560102EE = .ok (.not 1 2) ∧
    decode 0x57018000 = .ok (.noti 1 0x8000) ∧
    decode 0x58010203 = .ok (.nand 1 2 3) ∧
    decode 0x5901020F = .ok (.nandi 1 2 15) ∧
    decode 0x5A010203 = .ok (.nor 1 2 3) ∧
    decode 0x5B01020F = .ok (.nori 1 2 15) :=
  ⟨rfl, rfl, rfl, rfl, rfl, rfl, rfl, rfl, rfl, rfl, rfl, rfl⟩

theorem test_decode_shift :
    decode 0x60010203 = .ok (.shl 1 2 3) ∧
    decode 0x61030308 = .ok (.shli 3 3 8) ∧
    decode 0x62010203 = .ok (.shr 1 2 3) ∧
    decode 0x63010204 = .ok (.shri 1 2 4) ∧
    decode 0x64010203 = .ok (.shra 1 2 3) ∧
    decode 0x65010204 = .ok (.shrai 1 2 4) ∧
    decode 0x68010203 = .ok (.rotl 1 2 3) ∧
    decode 0x69040106 = .ok (.rotli 4 1 6) ∧
    decode 0x6A010203 = .ok (.rotr 1 2 3) ∧
    decode 0x6B0102FF = .ok (.rotri 1 2 255) :=
  ⟨rfl, rfl, rfl, rfl, rfl, rfl, rfl, rfl, rfl, rfl⟩

theorem test_decode_compare :
    decode 0x700102EE = .ok (.cmp 1 2) ∧
    decode 0x710102EE = .ok (.cmpu 1 2) ∧
    decode 0x72018000 = .ok (.cmpi 1 0x8000) :=
  ⟨rfl, rfl, rfl⟩

theorem test_decode_branch :
    decode 0x80FFFFF7 = .ok (.be 0xFFFFF7) ∧
    decode 0x81000003 = .ok (.bne 3) ∧
    decode 0x82800000 = .ok (.bl 0x800000) ∧
    decode 0x837FFFFF = .ok (.ble 0x7FFFFF) ∧
    decode 0x84000002 = .ok (.bg 2) ∧
    decode 0x85000003 = .ok (.bge 3) ∧
    decode 0x88800000 = .ok (.jmp 0x800000) :=
  ⟨rfl, rfl, rfl, rfl, rfl, rfl, rfl⟩

theorem test_decode_rest :
    decode 0x900AEEEE = .ok (.go 10) ∧
    decode 0x91000005 = .ok (.call 5) ∧
    decode 0x92EEEEEE = .ok (.ret) ∧
    decode 0xA0000001 = .ok (.int 1) ∧
    decode 0xB0EEEEEE = .ok (.inp) ∧
    decode 0xB1EEEEEE = .ok (.out) :=
  ⟨rfl, rfl, rfl, rfl, rfl, rfl⟩

theorem test_decode_unassigned :
    decode 0x01000000 = .error (.illegalOpcode 0x01) ∧ decode 0xFFFFFFFF = .error (.illegalOpcode 0xFF) ∧
    decode 0x86000000 = .error (.illegalOpcode 0x86) ∧ decode 0xB2000000 = .error (.illegalOpcode 0xB2) :=
  ⟨rfl, rfl, rfl, rfl⟩

theorem test_table_word : decodeTableWord 32 0x30030102 = some (.add 3 1 2) ∧ decodeTableWord 32 0x01000000 = none :=
  ⟨rfl, rfl⟩

/-- E3 of 95_test_vectors.md: the layout of an instruction word in memory. -/
theorem test_layout : layout 0x01020304 = [0x01, 0x02, 0x03, 0x04] := by decide

theorem test_encode : encode (.bne 0xFFFFFC) = 0x81FFFFFC ∧ encode (.pop 34) = 0x19220000 := by decide

/-! ### Single steps (95_test_vectors.md sections 1 and 2; operands before, registers after) -/

theorem test_nop :
    goes 0x00ABCDEF (boot [])
      (fun t => decide (t = { (boot []).withFetchWord 32 0x00ABCDEF with ir := 0x00ABCDEF, pc := 4 })) = true := by
  decide
theorem test_eop :
    goes 0x04FFFFFF (boot [])
      (fun t => decide (t.run = .off ∧ t.pc = 4 ∧ t.ir = 0x04FFFFFF ∧ t.sp = 255)) = true := by
  decide
theorem test_set_negative :
    goes 0x1002FFFD (boot []) (fun t => decide (x t 2 = 0xFFFFFFFD ∧ t.pc = 4)) = true := by
  decide
theorem test_cp_ir : goes 0x11012400 (boot []) (fun t => decide (x t 1 = 0x11012400)) = true := by decide
theorem test_lb :
    goes 0x12030102 (withBytes (boot [(1, 0x64), (2, 1), (3, 0xAABBCC00)]) 100 [5, 6])
      (fun t => decide (x t 3 = 0xAABBCC06)) = true := by
  decide
theorem test_lw :
    goes 0x13030102 (withBytes (boot [(1, 0x63), (2, 2)]) 101 [0xDE, 0xAD, 0xBE, 0xEF])
      (fun t => decide (x t 3 = 0xDEADBEEF)) = true := by
  decide
theorem test_lw_unreduced :
    faults 0x13030102 (boot [(1, 0xFFFFFFFF), (2, 0x65)])
      (fun f => decide (f.stopped.pc = 4 ∧ x f.stopped 3 = 0)) = true := by
  decide
theorem test_sb :
    goes 0x14020100 (boot [(1, 0x80), (2, 0x201)])
      (fun t => decide (t.mem.read 128 = 1 ∧ t.mem.read 129 = 0)) = true := by
  decide
theorem test_sw :
    goes 0x15020100 (boot [(1, 0x80), (2, 0x1020304)])
      (fun t => decide ([t.mem.read 128, t.mem.read 129, t.mem.read 130, t.mem.read 131] = [1, 2, 3, 4])) = true := by
  decide
theorem test_sw_end :
    faults 0x15020100 (boot [(1, 0xFD), (2, 0x1020304)])
      (fun f => decide (f.stopped.mem.read 253 = 0 ∧ f.stopped.run = .faulted)) = true := by
  decide
theorem test_push_sp :
    goes 0x18220000 (boot [(34, 0xC8)]) (fun t => decide (t.sp = 0xC4 ∧ t.mem.read 199 = 0xC4)) = true := by
  decide
theorem test_pop_sp :
    goes 0x19220000 (withBytes (boot [(34, 0x64)]) 100 [0, 0, 0, 0x40])
      (fun t => decide (t.sp = 0x44)) = true := by
  decide
theorem test_add :
    goes 0x30030302 (boot [(3, 3), (2, 0xFFFFFFFE)]) (fun t => decide (x t 3 = 1)) = true := by
  decide
theorem test_add_wraps :
    goes 0x30030102 (boot [(1, 0x7FFFFFFF), (2, 1)]) (fun t => decide (x t 3 = 0x80000000)) = true := by
  decide
theorem test_addu :
    goes 0x31030102 (boot [(1, 1), (2, 0xFFFFFFFE)]) (fun t => decide (x t 3 = 0xFFFFFFFF)) = true := by
  decide
theorem test_addu_wraps :
    goes 0x31030102 (boot [(1, 0xFFFFFFFF), (2, 1)]) (fun t => decide (x t 3 = 0)) = true := by
  decide
theorem test_addi : goes 0x320202FD (boot [(2, 3)]) (fun t => decide (x t 2 = 0)) = true := by decide
theorem test_addi_lowest :
    goes 0x32020180 (boot [(1, 0)]) (fun t => decide (x t 2 = 0xFFFFFF80)) = true := by
  decide
theorem test_sub :
    goes 0x33030102 (boot [(1, 5), (2, 7)]) (fun t => decide (x t 3 = 0xFFFFFFFE)) = true := by
  decide
theorem test_sub_wraps :
    goes 0x33030102 (boot [(1, 0x80000000), (2, 1)]) (fun t => decide (x t 3 = 0x7FFFFFFF)) = true := by
  decide
theorem test_subu :
    goes 0x34030102 (boot [(1, 0), (2, 1)]) (fun t => decide (x t 3 = 0xFFFFFFFF)) = true := by
  decide
theorem test_subi : goes 0x3502011E (boot [(1, 0x32)]) (fun t => decide (x t 2 = 0x14)) = true := by decide
theorem test_subi_lowest : goes 0x35020180 (boot []) (fun t => decide (x t 2 = 0x80)) = true := by decide
theorem test_mul :
    goes 0x38010100 (boot [(1, 0xAAAAAAAA)]) (fun t => decide (t.hi = 0x1C71C71C ∧ t.lo = 0xE38E38E4)) = true := by
  decide
theorem test_mul_negative :
    goes 0x38010200 (boot [(1, 0xFFFFFFF9), (2, 3)])
      (fun t => decide (t.hi = 0xFFFFFFFF ∧ t.lo = 0xFFFFFFEB)) = true := by
  decide
theorem test_mulu :
    goes 0x39010100 (boot [(1, 0xAAAAAAAA)]) (fun t => decide (t.hi = 0x71C71C70 ∧ t.lo = 0xE38E38E4)) = true := by
  decide
theorem test_muli :
    goes 0x3A01FFFD (boot [(1, 7)]) (fun t => decide (t.hi = 0xFFFFFFFF ∧ t.lo = 0xFFFFFFEB)) = true := by
  decide
theorem test_muli_lowest :
    goes 0x3A018000 (boot [(1, 0x80000000)]) (fun t => decide (t.hi = 0x4000 ∧ t.lo = 0)) = true := by
  decide
theorem test_div :
    goes 0x3B010200 (boot [(1, 0xFFFFFFF9), (2, 2)])
      (fun t => decide (t.hi = 0xFFFFFFFD ∧ t.lo = 0xFFFFFFFF)) = true := by
  decide
theorem test_div_overflow :
    goes 0x3B010200 (boot [(1, 0x80000000), (2, 0xFFFFFFFF)])
      (fun t => decide (t.hi = 0x80000000 ∧ t.lo = 0)) = true := by
  decide
theorem test_divu :
    goes 0x3C010200 (boot [(1, 0xFFFFFFF9), (2, 2)]) (fun t => decide (t.hi = 0x7FFFFFFC ∧ t.lo = 1)) = true := by
  decide
theorem test_divi :
    goes 0x3D01FFFD (boot [(1, 10)]) (fun t => decide (t.hi = 0xFFFFFFFD ∧ t.lo = 1)) = true := by
  decide
theorem test_abs : goes 0x40010200 (boot [(2, 0xFFFFFFFB)]) (fun t => decide (x t 1 = 5)) = true := by decide
theorem test_abs_lowest :
    goes 0x40010200 (boot [(2, 0x80000000)]) (fun t => decide (x t 1 = 0x80000000)) = true := by
  decide
theorem test_neg : goes 0x41010200 (boot [(2, 5)]) (fun t => decide (x t 1 = 0xFFFFFFFB)) = true := by decide
theorem test_neg_lowest :
    goes 0x41010200 (boot [(2, 0x80000000)]) (fun t => decide (x t 1 = 0x80000000)) = true := by
  decide
theorem test_inc : goes 0x42010000 (boot [(1, 0xFFFFFFFF)]) (fun t => decide (x t 1 = 0)) = true := by decide
theorem test_dec : goes 0x43010000 (boot [(1, 0)]) (fun t => decide (x t 1 = 0xFFFFFFFF)) = true := by decide
theorem test_mod :
    goes 0x48010203 (boot [(2, 0xFFFFFFFF), (3, 10)])
      (fun t => decide (x t 1 = 5 ∧ t.hi = 0x19999999 ∧ t.lo = 5)) = true := by
  decide
theorem test_modi :
    goes 0x490102FF (boot [(2, 0xFFFFFFFF)])
      (fun t => decide (x t 1 = 0 ∧ t.hi = 0x01010101 ∧ t.lo = 0)) = true := by
  decide
theorem test_and :
    goes 0x50010203 (boot [(2, 0xF0F0F0F0), (3, 0xFF00FF00)]) (fun t => decide (x t 1 = 0xF000F000)) = true := by
  decide
theorem test_andi : goes 0x510201FF (boot [(1, 0xFFFFFFFF)]) (fun t => decide (x t 2 = 0xFF)) = true := by decide
theorem test_or :
    goes 0x52010203 (boot [(2, 0xF0F0F0F0), (3, 0xFF00FF00)]) (fun t => decide (x t 1 = 0xFFF0FFF0)) = true := by
  decide
theorem test_ori :
    goes 0x53010280 (boot [(2, 0x01020300)]) (fun t => decide (x t 1 = 0x01020380)) = true := by
  decide
theorem test_xor :
    goes 0x54010203 (boot [(2, 0xF0F0F0F0), (3, 0xFF00FF00)]) (fun t => decide (x t 1 = 0x0FF00FF0)) = true := by
  decide
theorem test_xori : goes 0x550102FF (boot [(2, 0xAA)]) (fun t => decide (x t 1 = 0x55)) = true := by decide
theorem test_not : goes 0x56010200 (boot [(2, 0xFFFF)]) (fun t => decide (x t 1 = 0xFFFF0000)) = true := by decide
theorem test_noti : goes 0x57018000 (boot []) (fun t => decide (x t 1 = 0xFFFF7FFF)) = true := by decide
theorem test_nand :
    goes 0x58010203 (boot [(2, 0xF0F0F0F0), (3, 0xFF00FF00)]) (fun t => decide (x t 1 = 0x0FFF0FFF)) = true := by
  decide
theorem test_nandi :
    goes 0x5901020F (boot [(2, 0xFFFFFFFF)]) (fun t => decide (x t 1 = 0xFFFFFFF0)) = true := by
  decide
theorem test_nor :
    goes 0x5A010203 (boot [(2, 0xF0F0F0F0), (3, 0xFF00FF00)]) (fun t => decide (x t 1 = 0x000F000F)) = true := by
  decide
theorem test_nori : goes 0x5B01020F (boot [(2, 0xFFFFFF00)]) (fun t => decide (x t 1 = 0xF0)) = true := by decide
theorem test_shl :
    goes 0x60010203 (boot [(2, 0xFFFFFFFF), (3, 31)]) (fun t => decide (x t 1 = 0x80000000)) = true := by
  decide
theorem test_shl_far :
    goes 0x60010203 (boot [(2, 0xFFFFFFFF), (3, 0xFFFFFFFF)]) (fun t => decide (x t 1 = 0)) = true := by
  decide
theorem test_shli : goes 0x61030308 (boot [(3, 5)]) (fun t => decide (x t 3 = 0x500)) = true := by decide
theorem test_shli_far : goes 0x610102FF (boot [(2, 0x80000001)]) (fun t => decide (x t 1 = 0)) = true := by decide
theorem test_shr :
    goes 0x62010203 (boot [(2, 0x80000000), (3, 31)]) (fun t => decide (x t 1 = 1)) = true := by
  decide
theorem test_shr_far :
    goes 0x62010203 (boot [(2, 0x80000000), (3, 32)]) (fun t => decide (x t 1 = 0)) = true := by
  decide
theorem test_shri :
    goes 0x63010204 (boot [(2, 0xFFFFFFF0)]) (fun t => decide (x t 1 = 0x0FFFFFFF)) = true := by
  decide
theorem test_shra :
    goes 0x64010203 (boot [(2, 0xFFFFFFF9), (3, 1)]) (fun t => decide (x t 1 = 0xFFFFFFFC)) = true := by
  decide
theorem test_shra_far :
    goes 0x64010203 (boot [(2, 0x80000000), (3, 0x28)]) (fun t => decide (x t 1 = 0xFFFFFFFF)) = true := by
  decide
theorem test_shrai :
    goes 0x65010204 (boot [(2, 0x80000000)]) (fun t => decide (x t 1 = 0xF8000000)) = true := by
  decide
theorem test_rotl :
    goes 0x68010203 (boot [(2, 0x12345678), (3, 0x24)]) (fun t => decide (x t 1 = 0x23456781)) = true := by
  decide
theorem test_rotli : goes 0x69040106 (boot [(1, 0xF0000001)]) (fun t => decide (x t 4 = 0x7C)) = true := by decide
theorem test_rotr :
    goes 0x6A010203 (boot [(2, 0x80000001), (3, 1)]) (fun t => decide (x t 1 = 0xC0000000)) = true := by
  decide
theorem test_rotri :
    goes 0x6B0102FF (boot [(2, 0x12345678)]) (fun t => decide (x t 1 = 0x2468ACF0)) = true := by
  decide
theorem test_cmp :
    goes 0x70010200 (boot [(1, 0x80000000), (2, 0x7FFFFFFF)]) (fun t => decide (t.cmpr = 0xFFFFFFFF)) = true := by
  decide
theorem test_cmp_equal :
    goes 0x70010200 (boot [(1, 7), (2, 7), (41, 9)]) (fun t => decide (t.cmpr = 0)) = true := by
  decide
theorem test_cmpu :
    goes 0x71010200 (boot [(1, 0xFFFFFFFF), (2, 1)]) (fun t => decide (t.cmpr = 1)) = true := by
  decide
theorem test_cmpi : goes 0x72018000 (boot []) (fun t => decide (t.cmpr = 1)) = true := by decide
theorem test_cmpi_less :
    goes 0x7201000B (boot [(1, 10)]) (fun t => decide (t.cmpr = 0xFFFFFFFF)) = true := by
  decide
theorem test_be : goes 0x80FFFFF7 (atPc (boot [(41, 0)]) 0x20) (fun t => decide (t.pc = 0)) = true := by decide
theorem test_bne : goes 0x81FFFFFC (atPc (boot [(41, 1)]) 0x20) (fun t => decide (t.pc = 0x14)) = true := by decide
theorem test_bne_not :
    goes 0x81000003 (atPc (boot [(41, 0)]) 0x20) (fun t => decide (t.pc = 0x24)) = true := by
  decide
theorem test_bl :
    goes 0x82000002 (atPc (boot [(41, 0x80000000)]) 0x20) (fun t => decide (t.pc = 0x2C)) = true := by
  decide
theorem test_bl_not :
    goes 0x82000003 (atPc (boot [(41, 0)]) 0x20) (fun t => decide (t.pc = 0x24)) = true := by
  decide
theorem test_ble : goes 0x83000003 (atPc (boot [(41, 0)]) 0x20) (fun t => decide (t.pc = 0x30)) = true := by decide
theorem test_ble_not :
    goes 0x83000003 (atPc (boot [(41, 1)]) 0x20) (fun t => decide (t.pc = 0x24)) = true := by
  decide
theorem test_bg :
    goes 0x84000002 (atPc (boot [(41, 0x7FFFFFFF)]) 0x20) (fun t => decide (t.pc = 0x2C)) = true := by
  decide
theorem test_bg_not :
    goes 0x84000003 (atPc (boot [(41, 0)]) 0x20) (fun t => decide (t.pc = 0x24)) = true := by
  decide
theorem test_bge : goes 0x85000003 (atPc (boot [(41, 0)]) 0x20) (fun t => decide (t.pc = 0x30)) = true := by decide
theorem test_bge_not :
    goes 0x85000003 (atPc (boot [(41, 0xFFFFFFFF)]) 0x20) (fun t => decide (t.pc = 0x24)) = true := by
  decide
theorem test_be_lowest :
    goes 0x80800000 (atPc (boot [(41, 0)]) 0x20) (fun t => decide (t.pc = 0xFE000024)) = true := by
  decide
theorem test_jmp_unsigned :
    goes 0x88FFFFFF (atPc (boot [(41, 0)]) 0x20) (fun t => decide (t.pc = 0x04000020)) = true := by
  decide
theorem test_jmp : goes 0x88000002 (atPc (boot [(41, 7)]) 0x20) (fun t => decide (t.pc = 0x2C)) = true := by decide
theorem test_go : goes 0x900A0000 (boot [(10, 0x1000)]) (fun t => decide (t.pc = 0x1000)) = true := by decide
theorem test_go_odd : goes 0x900A0000 (boot [(10, 6)]) (fun t => decide (t.pc = 6)) = true := by decide
theorem test_int_identity :
    goes 0xA0000001 (boot []) (fun t => decide (t.pc = 4 ∧ t.ir = 0xA0000001)) = true := by
  decide
theorem test_int_absent : refuses 0xA0000001 (served (boot []) .absent) .intNoHandler = true := by decide
theorem test_call : refuses 0x91000005 (boot []) .callNotDefined = true := by decide
theorem test_ret : refuses 0x92000000 (boot []) .retNotDefined = true := by decide
theorem test_in : refuses 0xB0000000 (boot []) .inNotDefined = true := by decide
theorem test_out : refuses 0xB1000000 (boot []) .outNotDefined = true := by decide

/-! ### Errors (95_test_vectors.md sections 2.0 to 2.2, 60_exceptions.md) -/

theorem test_write_zero_ignore :
    goes 0x10000001 (under (boot []) .ignore false) (fun t => decide (x t 0 = 0 ∧ t.err = 0)) = true := by decide
theorem test_mod_zero_ignore :
    goes 0x48000203 (under (boot [(2, 17), (3, 5)]) .ignore false) (fun t => decide (t.hi = 3 ∧ t.lo = 2)) = true := by
  decide
theorem test_invalid_register : isFault (step ((boot []).withFetchWord 32 0x11012A00)) = true := by decide
theorem test_pop_refused :
    goes 0x19010000 (withBytes (boot [(34, 0xFC)]) 252 [1, 2, 3, 4]) (fun t => decide (x t 1 = 0 ∧ t.sp = 0xFC)) = true := by
  decide
theorem test_push_refused : goes 0x18010000 (boot [(1, 0x01020304), (34, 3)])
    (fun t => decide (t.sp = 3 ∧ t.mem.read 0 = 0x18 ∧ t.mem.read 1 = 1)) = true := by decide
/-- P9: a failed fetch leaves IR and PC. -/
theorem test_fetch_fault : (match step { boot [] with pc := 0x100, ir := 7 } with
    | .fault f => decide (f.stopped.pc = 0x100 ∧ f.stopped.ir = 7)
    | _ => false) = true := by decide
/-- The word stored where the next step fetches is the one it runs. -/
theorem test_with_fetch_word : fetchWord (State.reset.withFetchWord 32 0x10030007) = 0x10030007 := by decide

/-! ### Witnesses: a concrete state and operands for the hypotheses of each obligation, clause by clause -/

theorem test_witness_DecodedWordAgreesWithEncoding : decode 0x110201EE = .ok (.cp 2 1) := rfl

theorem test_witness_UnusedBytesAreIgnored :
    decode 0x11010100 = .ok (.cp 1 1) ∧
    (0x110101FF : Word) &&& (Instr.cp 1 1).usedBits = 0x11010100 &&& (Instr.cp 1 1).usedBits ∧
    byte1 0x11FFFFFF = byte1 0x11010100 := ⟨rfl, by decide, by decide⟩

theorem test_witness_UnassignedOpcodeFaults :
    byte1 (fetchWord (State.reset.withFetchWord 32 0xB1000000)) ∈ assigned ∧
    Fetches ((atPc State.reset 252).withFetchWord 32 0xB2000000) ∧
    byte1 (fetchWord ((atPc State.reset 252).withFetchWord 32 0xB2000000)) ∉ assigned :=
  ⟨by decide, ⟨rfl, by decide⟩, by decide⟩

theorem test_witness_StepRunsDecodedInstruction :
    Fetches ((atPc State.reset 252).withFetchWord 32 0x04000000) ∧
    decode (fetchWord ((atPc State.reset 252).withFetchWord 32 0x04000000)) = .ok .eop := ⟨⟨rfl, by decide⟩, rfl⟩

theorem test_witness_FetchOutsideMemoryFaults :
    (atPc State.reset 253).run = .on ∧ (atPc State.reset 253).cfg.memSize < (atPc State.reset 253).pc.toNat + 4 := by
  decide

theorem test_witness_StoppedMachineStaysStopped :
    State.reset.switchOff.run = .off ∧ (State.reset.faultedBy .memRange).run = .faulted := ⟨rfl, rfl⟩

theorem test_witness_PcAndIrAreReadAfterTheIncrement :
    Fetches (State.reset.withFetchWord 32 0x11012100) ∧ regOf 1 = some (.gpr 0) ∧ regOf 32 = some (.gpr 31) ∧
    decode (fetchWord (State.reset.withFetchWord 32 0x11012100)) = .ok (.cp 1 33) ∧
    decode (fetchWord (State.reset.withFetchWord 32 0x11202400)) = .ok (.cp 32 36) ∧
    decode (fetchWord (State.reset.withFetchWord 32 0x88FFFFFF)) = .ok (.jmp 0xFFFFFF) :=
  ⟨⟨rfl, by decide⟩, rfl, rfl, rfl, rfl, rfl⟩

theorem test_witness_WordStoreIsBigEndian :
    Memory.wf [(3, 1), (8, 2)] = true ∧ Memory.read (Memory.writeWord [(3, 1), (8, 2)] 4 0) 3 = 1 ∧
    Memory.read (Memory.writeWord [(3, 1), (8, 2)] 4 0) 8 = 2 := by decide

theorem test_witness_CanonicalMemoriesReadingAlikeAreEqual :
    Memory.wf (Memory.write (Memory.write [] 5 1) 3 2) = true ∧
    Memory.wf (Memory.write (Memory.write (Memory.write [] 3 2) 5 1) 9 0) = true ∧
    ∀ a, Memory.read (Memory.write (Memory.write [] 5 1) 3 2) a =
      Memory.read (Memory.write (Memory.write (Memory.write [] 3 2) 5 1) 9 0) a :=
  ⟨by decide, by decide, fun _ => rfl⟩

/-- SW of R1 at the address in PC. -/
theorem test_witness_FetchSeesEarlierStore :
    (atPc (boot [(1, 0x10030007), (2, 252)]) 252).mem.wf = true ∧ regOf 1 = some (.gpr 0) ∧
    regOf 2 = some (.gpr 1) ∧ regOf 0 = some .zero ∧
    effAddr (atPc (boot [(1, 0x10030007), (2, 252)]) 252) (.gpr 1) .zero = 252 ∧
    isNext (exec (.sw 1 2 0) (atPc (boot [(1, 0x10030007), (2, 252)]) 252)) = true := by decide

theorem test_witness_RegisterReadByNumber : 42 ≤ (42 : RegNum).toNat ∧ 42 ≤ (255 : RegNum).toNat := by decide

/-- Every register position, SP at and past `MAXADDR`, and the protected registers under every setting. -/
theorem test_witness_RegisterWriteByNumber :
    regOf 0 = some .zero ∧ regOf 1 = some (.gpr 0) ∧ regOf 32 = some (.gpr 31) ∧ regOf 33 = some .pc ∧
    regOf 34 = some .sp ∧ regOf 35 = some .fp ∧ regOf 36 = some .ir ∧ regOf 37 = some .stat ∧
    regOf 38 = some .err ∧ regOf 39 = some .hi ∧ regOf 40 = some .lo ∧ regOf 41 = some .cmpr ∧
    (255 : Word).toNat ≤ State.reset.cfg.maxAddr ∧ State.reset.cfg.maxAddr < (256 : Word).toNat ∧
    State.reset.cfg.statWp = false ∧ State.reset.cfg.wpWrite = .fault ∧
    (under State.reset .ignore true).cfg.wpWrite = .ignore ∧ (under State.reset .error true).cfg.wpWrite = .error ∧
    (under State.reset .error true).cfg.statWp = true ∧ 42 ≤ (42 : RegNum).toNat := by decide

theorem test_witness_InvalidRegisterFaultsFirst :
    (Instr.add 1 42 255).regs.find? (fun b => decide (42 ≤ b.toNat)) = some 42 ∧
    (Instr.add 41 0 255).regs.find? (fun b => decide (42 ≤ b.toNat)) = some 255 ∧
    WellFormed (.add 41 0 41) = true ∧ isNext (exec (.add 41 0 41) State.reset) = true := by decide

theorem test_witness_StatReadIsAFreshDraw : regOf 1 = some (.gpr 0) ∧ State.reset.cfg.statWp = false := by decide

/-- Both sources STAT, and a refused PUSH of STAT. -/
theorem test_witness_EveryStatReadUsesUpADraw :
    isNext (exec (.add 1 37 37) (boot [])) = true ∧ (Instr.add 1 37 37).sources = [37, 37] ∧ regOf 37 = some .stat ∧
    isNext (exec (.push 37) (boot [(34, 3)])) = true := by decide

/-- A word and a byte at the last address that holds them, and one past it. -/
theorem test_witness_LoadResults :
    regOf 3 = some (.gpr 2) ∧ regOf 1 = some (.gpr 0) ∧ regOf 0 = some .zero ∧
    effAddr (boot [(1, 255)]) (.gpr 0) .zero + 1 ≤ (boot []).cfg.memSize ∧
    (boot []).cfg.memSize < effAddr (boot [(1, 256)]) (.gpr 0) .zero + 1 ∧
    effAddr (boot [(1, 252)]) (.gpr 0) .zero + 4 ≤ (boot []).cfg.memSize ∧
    (boot []).cfg.memSize < effAddr (boot [(1, 253)]) (.gpr 0) .zero + 4 := by decide

theorem test_witness_StoreResults :
    (boot [(1, 255)]).mem.wf = true ∧ regOf 3 = some (.gpr 2) ∧ regOf 1 = some (.gpr 0) ∧ regOf 0 = some .zero ∧
    isNext (exec (.sb 3 1 0) (boot [(1, 255)])) = true ∧ isFault (exec (.sb 3 1 0) (boot [(1, 256)])) = true ∧
    isNext (exec (.sw 3 1 0) (boot [(1, 252)])) = true ∧ isFault (exec (.sw 3 1 0) (boot [(1, 253)])) = true := by
  decide

/-- SP 255 and 4 store, SP 3 is refused. -/
theorem test_witness_PushResult :
    (boot [(34, 4)]).mem.wf = true ∧ regOf 1 = some (.gpr 0) ∧ 4 ≤ (boot [(34, 4)]).sp.toNat ∧
    (boot []).sp.toNat = (boot []).cfg.maxAddr ∧ (boot [(34, 3)]).sp.toNat < 4 ∧
    x (match exec (.push 1) (boot [(1, 9)]) with | .next t => t | _ => boot []) 34 = 251 := by decide

/-- SP 253 faults, 252 is refused, 251 pops; POP SP takes 251 and refuses 252. -/
theorem test_witness_PopResult :
    (boot []).cfg.legal = true ∧ regOf 1 = some (.gpr 0) ∧ regOf 34 = some .sp ∧
    (boot []).cfg.memSize < (boot [(34, 253)]).sp.toNat + 4 ∧ (boot [(34, 252)]).sp.toNat + 4 = (boot []).cfg.memSize ∧
    (boot [(34, 251)]).sp.toNat + 4 < (boot []).cfg.memSize ∧ (Reg.gpr 0 : Reg) ≠ .sp ∧
    (withBytes (boot [(34, 0)]) 0 [0, 0, 0, 251]).mem.readWord 0 = 251 ∧ 251 + 4 ≤ (boot []).cfg.maxAddr ∧
    (withBytes (boot [(34, 0)]) 0 [0, 0, 0, 252]).mem.readWord 0 = 252 ∧ (boot []).cfg.maxAddr < 252 + 4 := by decide

theorem test_witness_PopUndoesPush :
    (boot [(34, 4)]).inv = true ∧ 4 ≤ (boot [(34, 4)]).sp.toNat ∧ (boot []).inv = true ∧ 4 ≤ (boot []).sp.toNat ∧
    regOf 1 = some (.gpr 0) ∧ regOf 2 = some (.gpr 1) := by decide

/-- The operands of the register forms: SP as a destination takes 255 and refuses 256. -/
theorem test_witness_AdditionSubtractionResults :
    regOf 34 = some .sp ∧ regOf 1 = some (.gpr 0) ∧ regOf 2 = some (.gpr 1) ∧
    (addSigned 250 5).toNat ≤ State.reset.cfg.maxAddr ∧ State.reset.cfg.maxAddr < (addSigned 250 6).toNat ∧
    isNext (exec (.add 34 1 2) (boot [(1, 250), (2, 5)])) = true := by decide

theorem test_witness_MultiplyResults :
    regOf 1 = some (.gpr 0) ∧ regOf 41 = some .cmpr ∧ isNext (exec (.mul 1 41) (boot [])) = true := by decide

/-- Both clauses of the signed quotient, and divisors at the ends of their range. -/
theorem test_witness_DivisionResults :
    regOf 1 = some (.gpr 0) ∧ regOf 2 = some (.gpr 1) ∧
    readSecond (boot [(1, 0x80000000), (2, 0xFFFFFFFF)]) (.gpr 0) (.gpr 1) ≠ 0 ∧
    (0x80000000 : Word) = 0x80000000 ∧ ¬((0x80000000 : Word) = 0x80000000 ∧ (1 : Word) = 0xFFFFFFFF) ∧
    (0x8000 : Imm16) ≠ 0 ∧ (1 : Imm16) ≠ 0 ∧
    isNext (exec (.div 1 2) (boot [(1, 0x80000000), (2, 1)])) = true := by decide

theorem test_witness_ModuloResults :
    regOf 34 = some .sp ∧ regOf 1 = some (.gpr 0) ∧ regOf 2 = some (.gpr 1) ∧
    readSecond (boot [(1, 256), (2, 1000)]) (.gpr 0) (.gpr 1) ≠ 0 ∧ (255 : Imm8) ≠ 0 ∧ (1 : Imm8) ≠ 0 := by decide

theorem test_witness_ZeroDivisorFaults :
    regOf 1 = some (.gpr 0) ∧ regOf 2 = some (.gpr 1) ∧ regOf 0 = some .zero ∧
    readSecond (boot [(1, 5)]) (.gpr 0) .zero = 0 ∧ readSecond (boot [(1, 5)]) (.gpr 1) .zero = 0 := by decide

theorem test_witness_UnaryResults :
    regOf 34 = some .sp ∧ regOf 1 = some (.gpr 0) ∧ isNext (exec (.abs 34 1) (boot [(1, 0xFFFFFF01)])) = true ∧
    isNext (exec (.dec 34) (boot [(34, 0)])) = true := by decide

theorem test_witness_SetCopyNotiResults :
    regOf 41 = some .cmpr ∧ regOf 33 = some .pc ∧ isNext (exec (.cp 41 33) (boot [])) = true ∧
    isNext (exec (.noti 37 0) (boot [])) = true := by decide

theorem test_witness_BitwiseResults :
    regOf 38 = some .err ∧ regOf 1 = some (.gpr 0) ∧ regOf 2 = some (.gpr 1) ∧
    isNext (exec (.nand 38 1 2) (boot [])) = true := by decide

theorem test_witness_ShiftResults :
    regOf 35 = some .fp ∧ regOf 1 = some (.gpr 0) ∧ regOf 2 = some (.gpr 1) ∧
    isNext (exec (.shra 35 1 2) (boot [(1, 0x80000000), (2, 32)])) = true := by decide

theorem test_witness_RotateResults :
    regOf 39 = some .hi ∧ regOf 1 = some (.gpr 0) ∧ regOf 2 = some (.gpr 1) ∧
    isNext (exec (.rotl 39 1 2) (boot [(1, 1), (2, 32)])) = true := by decide

/-- Less, equal and greater. -/
theorem test_witness_CompareResults :
    regOf 1 = some (.gpr 0) ∧ regOf 2 = some (.gpr 1) ∧
    (0x80000000 : Word).toInt < (0x7FFFFFFF : Word).toInt ∧ (7 : Word).toInt = (7 : Imm16).toInt ∧
    ((0x7FFFFFFF : Word).toNat : Int) < (0x80000000 : Word).toNat := by decide

/-- CMPR at -1, 0 and 1: each condition holds and fails. -/
theorem test_witness_BranchResults :
    (0xFFFFFFFF : Word).toInt < 0 ∧ ¬(0xFFFFFFFF : Word).toInt = 0 ∧ (0 : Word).toInt = 0 ∧ ¬(0 : Word).toInt < 0 ∧
    ¬0 < (0 : Word).toInt ∧ 0 < (1 : Word).toInt ∧ ¬(1 : Word).toInt ≤ 0 ∧ ¬0 ≤ (0xFFFFFFFF : Word).toInt := by decide

theorem test_witness_BranchAfterCompareFollowsOrder :
    regOf 1 = some (.gpr 0) ∧ regOf 2 = some (.gpr 1) ∧
    isNext (exec (.cmp 1 2) (boot [(1, 0x80000000), (2, 0x7FFFFFFF)])) = true ∧
    (0x80000000 : Word).toInt < (0x7FFFFFFF : Word).toInt := by decide

/-- 253 is the first target whose word does not fit. -/
theorem test_witness_GoResult :
    regOf 33 = some .pc ∧ regOf 10 = some (.gpr 9) ∧ (boot [(10, 253)]).run = .on ∧
    (boot [(10, 253)]).cfg.memSize < (readReg (boot [(10, 253)]) (.gpr 9)).toNat + 4 := by decide

theorem test_witness_IntResult :
    State.reset.cfg.intHandler = .identity ∧ (served State.reset .system).cfg.intHandler = .system ∧
    (served State.reset .system).inv = true ∧ (served State.reset .absent).cfg.intHandler = .absent := by decide

/-- Two machines under an operating system that differ in the mode alone. -/
theorem test_witness_IntHandlerSeesRegistersAndMemoryOnly :
    (served State.reset .system).cfg.intHandler = .system ∧
    (withMode (served State.reset .system) .singleStep).cfg.intHandler = .system ∧
    (served State.reset .system).hostCall = (withMode (served State.reset .system) .singleStep).hostCall ∧
    (served State.reset .system).run = (withMode (served State.reset .system) .singleStep).run ∧
    served State.reset .system ≠ withMode (served State.reset .system) .singleStep := by decide

/-- MOD, a store and a refused PUSH go on; each leaves registers alone that the statement names. -/
theorem test_witness_RegisterFrame :
    (∀ n, Instr.mod 1 2 3 ≠ .int n) ∧ isNext (exec (.mod 1 2 3) (boot [(3, 5)])) = true ∧
    isNext (exec (.push 1) (boot [(34, 3)])) = true ∧ (Instr.sw 1 2 3).destination = none ∧
    (∀ y, Instr.sw 1 2 3 ≠ .push y) ∧ (∀ n ∈ (Instr.mod 1 2 3).sources, regOf n ≠ some .stat) :=
  ⟨fun _ h => (nomatch h), by decide, by decide, rfl, fun _ h => (nomatch h), by decide⟩

/-- SW at 252, with the bytes below it outside what it stores. -/
theorem test_witness_MemoryFrame :
    (∀ n, Instr.sw 1 2 0 ≠ .int n) ∧ isNext (exec (.sw 1 2 0) (boot [(1, 7), (2, 252)])) = true ∧
    (Instr.sw 1 2 0).storedBytes (boot [(1, 7), (2, 252)]) = some (252, 4) ∧
    (Instr.push 1).storedBytes (boot [(34, 4)]) = some (0, 4) ∧ (Instr.cp 1 2).storedBytes (boot []) = none :=
  ⟨fun _ h => (nomatch h), by decide, by decide, by decide, rfl⟩

/-- A fetch that fails at 253, and an instruction at 0 that faults. -/
theorem test_witness_FaultsArePrecise :
    (atPc State.reset 253).run = .on ∧ isFault (step (atPc State.reset 253)) = true ∧
    (atPc State.reset 253).cfg.memSize < (atPc State.reset 253).pc.toNat + 4 ∧
    Fetches (State.reset.withFetchWord 32 0x3D010000) ∧
    isFault (step (State.reset.withFetchWord 32 0x3D010000)) = true :=
  ⟨rfl, by decide, by decide, ⟨rfl, by decide⟩, by decide⟩

theorem test_witness_StepKeepsMachineInvariant :
    ((boot [(1, 7)]).withFetchWord 32 0x18010000).inv = true ∧
    isNext (step ((boot [(1, 7)]).withFetchWord 32 0x18010000)) = true := by decide

/-- The smallest and the largest memory, and a program that fills the smallest. -/
theorem test_witness_BootMeetsMachineInvariant :
    ({ Config.standard with memSize := 4 } : Config).legal = true ∧
    ({ Config.standard with memSize := 2147483648 } : Config).legal = true ∧ PowerOn.zeros.mem.wf = true ∧
    PowerOn.zeros.mem.below 4 = true ∧ [(4 : Byte), 0, 0, 0].length ≤ 4 := by decide

theorem test_witness_BootState :
    ({ Config.standard with memSize := 4 } : Config).legal = true ∧ PowerOn.zeros.mem.wf = true ∧
    0 < [(4 : Byte), 0, 0, 0].length ∧ [(4 : Byte), 0, 0, 0].length ≤ 4 := by decide

theorem test_witness_GeneralRegistersChangeOnlyOnRequest :
    goes 0x10010008 State.reset (fun t => decide (t.gpr.get 0 ≠ State.reset.gpr.get 0)) = true := by decide

theorem test_witness_MemoryChangesOnlyByStores :
    goes 0x18010000 (boot [(1, 7)])
      (fun t => decide (t.mem ≠ ((boot [(1, 7)]).withFetchWord 32 0x18010000).mem)) = true := by decide

theorem test_witness_OnlyEopOrIntSwitchesOff :
    State.reset.run = .on ∧ goes 0x04000000 State.reset (fun t => decide (t.run ≠ .on)) = true := by decide

theorem test_witness_ErrBitsStayUntilProgramWritesErr :
    goes 0x10010000 (boot [(38, 6)]) (fun t => decide (t.err = 6)) = true ∧
    (Instr.set 1 0).destination = some 1 ∧ regOf 1 ≠ some .err ∧
    decode (fetchWord (State.reset.withFetchWord 32 0x10010000)) = .ok (.set 1 0) :=
  ⟨by decide, rfl, by decide, rfl⟩

/-- Values just past the range: ADD into SP, MOD into SP, PUSH at 3, POP at 252, POP SP of 252, whose second write
alone is out of range, and of 256. -/
theorem test_witness_RefusedSpWriteIsObservable :
    (boot []).cfg.legal = true ∧ (boot []).cfg.maxAddr = 255 ∧
    spWrites (.add 34 1 2) (boot [(1, 250), (2, 6)]) = [256] ∧
    spWrites (.mod 34 1 2) (boot [(1, 256), (2, 1000)]) = [256] ∧ spWrites (.push 1) (boot [(34, 3)]) = [-1] ∧
    spWrites (.pop 1) (boot [(34, 252)]) = [256] ∧
    spWrites (.pop 34) (withBytes (boot [(34, 0)]) 0 [0, 0, 0, 252]) = [4, 252, 256] ∧
    spWrites (.pop 34) (withBytes (boot [(34, 0)]) 0 [0, 0, 1, 0]) = [4, 256, 260] := by decide

theorem test_witness_ParametersNeverChange : isNext (step State.reset) = true := by decide

theorem test_witness_ModeChangesNothing :
    isNext (step State.reset) = true ∧ isFault (step (atPc State.reset 253)) = true ∧
    withMode State.reset .singleStep ≠ State.reset := by decide

/-- EOP leads to a final state; a machine that the host switched off right after boot is in none. -/
theorem test_witness_OnlyEopLeadsToAFinalState :
    (State.reset.withFetchWord 32 0x04000000).inv = true ∧ (State.reset.withFetchWord 32 0x04000000).run = .on ∧
    goes 0x04000000 State.reset State.final = true ∧ State.reset.switchOff.final = false := by decide

theorem test_witness_SafeRunEndsWithEop :
    (State.reset.withFetchWord 32 0x04000000).inv = true ∧ (State.reset.withFetchWord 32 0x04000000).run = .on ∧
    safe (State.reset.withFetchWord 32 0x04000000) :=
  ⟨by decide, rfl, 1, _, rfl, by decide⟩

end Sys2Proof.Tests
end

/-! PROOFS. The register write and the instruction cycle (10_state.md R31, R40). First one equation for each
thing a register write and a fetched step can do, then the obligations that are put together from them. -/

namespace Sys2Proof.Machine

open Sys2Proof.Claim

/-! ### Faults and invalid register numbers -/

/-- The model's stopped machine is the one the statements speak of (60_exceptions.md R272). -/
theorem faultedBy_eq_stoppedBy (s : State) (k : ErrorKind) : s.faultedBy k = stoppedBy s k := rfl

/-- The numbers 42 to 255 name no register (10_state.md R22). -/
theorem regOf_of_le (n : RegNum) (h : 42 ≤ n.toNat) : regOf n = none := by
  rw [regOf_eq_none, RegNum.valid, decide_eq_false_iff_not]
  omega

/-- A number from 42 on faults whatever the operation is that asked for the register (60_exceptions.md R276). -/
theorem withReg_of_le (s : State) (n : RegNum) (go : Reg → Out) (h : 42 ≤ n.toNat) :
    withReg s n go = .fault (.invalidRegister n (stoppedBy s .invalidRegister)) := by
  simp [withReg, regOf_of_le n h, raise, faultedBy_eq_stoppedBy]

/-! ### The writes that do not set the register (10_state.md R25, R31) -/

section
variable (base done : State) (r : Reg) (v : Word)

/-- SP refuses a value above `MAXADDR`; the instruction's other effects are dropped (60_exceptions.md R273). -/
theorem writeReg_sp_refused (h : base.cfg.maxAddr < v.toNat) :
    writeReg base done .sp v = .next (base.signal .spRange) := by
  simp [writeReg, isProtected, spValid, raise, h]

theorem writeReg_protected_ignore (hc : done.cfg = base.cfg) (hp : isProtected base r = true)
    (hw : base.cfg.wpWrite = .ignore) : writeReg base done r v = .next done := by
  simp [writeReg, hp, hw, raise, hc]

theorem writeReg_protected_error (hc : done.cfg = base.cfg) (hp : isProtected base r = true)
    (hw : base.cfg.wpWrite = .error) : writeReg base done r v = .next (done.signal .writeProtected) := by
  simp [writeReg, hp, hw, raise, hc]

theorem writeReg_protected_fault (hp : isProtected base r = true) (hw : base.cfg.wpWrite = .fault) :
    writeReg base done r v = .fault (.writeProtected r (stoppedBy base .writeProtected)) := by
  simp [writeReg, hp, hw, raise, faultedBy_eq_stoppedBy]

/-- The write-protected registers (10_state.md R22): ZERO, PC and IR always, STAT under `STAT_WP`. -/
theorem isProtected_iff :
    isProtected base r = true ↔
      r = .zero ∨ r = .pc ∨ r = .ir ∨ (r = .stat ∧ base.cfg.statWp = true) := by
  cases r <;> simp [isProtected]

/-! ### Every register write -/

/-- A register write does what 10_state.md R31 says, for every register, value and setting. The other effects of
the instruction may be anything that keeps the parameters. -/
theorem writeReg_writeOutcome (hc : done.cfg = base.cfg) :
    WriteOutcome (writeReg base done r v) base done r v := by
  have sets : isProtected base r = false → r ≠ .sp → writeReg base done r v = .next (setReg done r v) :=
    fun hp hr => writeReg_set base done r v hp fun e => absurd e hr
  refine ⟨?gpr, ?fp, ?err, ?hi, ?lo, ?cmpr, ?stat, ?sp, ?spRefused, ?writeProtected⟩
  case gpr => rintro k rfl; exact sets rfl nofun
  case fp => rintro rfl; exact sets rfl nofun
  case err => rintro rfl; exact sets rfl nofun
  case hi => rintro rfl; exact sets rfl nofun
  case lo => rintro rfl; exact sets rfl nofun
  case cmpr => rintro rfl; exact sets rfl nofun
  case stat => rintro rfl hwp; exact sets hwp nofun
  case sp => rintro rfl hv; exact writeReg_set base done .sp v rfl fun _ => decide_eq_true hv
  case spRefused => rintro rfl hv; exact writeReg_sp_refused base done v hv
  case writeProtected =>
    intro h
    have hp : isProtected base r = true := (isProtected_iff base r).2 h
    exact ⟨writeReg_protected_ignore base done r v hc hp, writeReg_protected_error base done r v hc hp,
      writeReg_protected_fault base done r v hp⟩

end

/-- A write that is the instruction's only effect (10_state.md R31). -/
theorem writeResult_writeOutcome (s : State) (r : Reg) (v : Word) :
    WriteOutcome (writeResult s r v) s s r v := writeReg_writeOutcome s s r v rfl

/-! ### The cycle (10_state.md R40) -/

/-- The fetched word is the big-endian word at PC (20_memory.md R65, R66). -/
theorem fetchWord_eq_append (s : State) :
    fetchWord s = s.mem.read s.pc.toNat ++ s.mem.read (s.pc.toNat + 1) ++ s.mem.read (s.pc.toNat + 2) ++
      s.mem.read (s.pc.toNat + 3) := rfl

/-- A step whose fetch succeeds executes the instruction that the fetched word decodes to. -/
theorem step_of_fetches (s : State) (i : Instr) (hf : Fetches s) (hd : decode (fetchWord s) = .ok i) :
    step s = exec i (afterFetch s) := by
  obtain ⟨hon, hmem⟩ := hf
  exact step_exec s i hon (decide_eq_true hmem) hd

/-! ### The obligations -/

/-- Settles O14: a valid number leads to the write's outcome, any other to the fault. -/
theorem registerWriteByNumber : Obligations.RegisterWriteByNumber := by
  intro s n v
  refine ⟨fun r hr => ?_, withReg_of_le s n _⟩
  rw [withReg_some s n _ r hr]
  exact writeResult_writeOutcome s r v

/-- Settles O6, with the fetched word written out as the four bytes at PC. -/
theorem stepRunsDecodedInstruction : Obligations.StepRunsDecodedInstruction := by
  intro s i hf hd
  rw [← fetchWord_eq_append] at hd ⊢
  exact step_of_fetches s i hf hd

end Sys2Proof.Machine

/-! PROOFS. The decoder and the bytes it reads (30_encoding.md R101). The opcode byte fixes which instruction a
word decodes to, hence which bytes are evaluated; the format of the instruction then says which operand bytes
must stay the same. -/

namespace Sys2Proof

/-! ### Bytes that a mask selects whole -/

/-- Two words that agree under a mask agree on each byte that the mask selects whole. It speaks of `byte1` to
`byte4` by their bit offsets. -/
theorem extractByte_eq_of_and_eq {w w' m : Word} (k : Nat) (h : w' &&& m = w &&& m)
    (hm : m.extractLsb' k 8 = 0xFF) : w'.extractLsb' k 8 = w.extractLsb' k 8 := by
  have hbyte : (w' &&& m).extractLsb' k 8 = (w &&& m).extractLsb' k 8 := by rw [h]
  have hones (b : Byte) : b &&& 0xFF = b := BitVec.and_allOnes
  simpa only [BitVec.extractLsb'_and, hm, hones] using hbyte

/-- Every format evaluates the opcode byte (R91). -/
theorem byte1_usedBits (i : Instr) : byte1 i.usedBits = 0xFF := by
  cases i <;> rw [Instr.usedBits] <;> decide

/-! ### What the decoder reads -/

/-- Decoding succeeds only with the instruction that the opcode byte names (R112). -/
theorem opcode_of_decodeBytes {b1 b2 b3 b4 : Byte} {i : Instr} (h : decodeBytes b1 b2 b3 b4 = .ok i) :
    i.opcode = b1 := by
  unfold decodeBytes at h
  split at h <;> cases h <;> rfl

/-- An instruction's opcode byte decodes with any operand bytes, to an instruction of that opcode (R101). -/
theorem decodeBytes_opcode (i : Instr) (b2 b3 b4 : Byte) :
    ∃ i', decodeBytes i.opcode b2 b3 b4 = .ok i' ∧ i'.opcode = i.opcode := by
  cases i <;> exact ⟨_, rfl, rfl⟩

/-- The decoded instruction depends on no operand byte but those its format evaluates (R93 to R99, R101). -/
theorem decodeBytes_congr {i : Instr} {b2 b3 b4 c2 c3 c4 : Byte}
    (h : decodeBytes i.opcode b2 b3 b4 = .ok i)
    (h2 : byte2 i.usedBits = 0xFF → c2 = b2)
    (h3 : byte3 i.usedBits = 0xFF → c3 = b3)
    (h4 : byte4 i.usedBits = 0xFF → c4 = b4) :
    decodeBytes i.opcode c2 c3 c4 = .ok i := by
  cases i with
  | nop | eop | ret | inp | out => rfl
  | push | pop | inc | dec | go =>
    dsimp only [Instr.usedBits] at h2
    obtain rfl := h2 (by decide)
    cases h
    rfl
  | cp | mul | mulu | div | divu | abs | neg | not | cmp | cmpu =>
    dsimp only [Instr.usedBits] at h2 h3
    obtain rfl := h2 (by decide)
    obtain rfl := h3 (by decide)
    cases h
    rfl
  | _ =>
    dsimp only [Instr.usedBits] at h2 h3 h4
    obtain rfl := h2 (by decide)
    obtain rfl := h3 (by decide)
    obtain rfl := h4 (by decide)
    exact h

/-- A word that agrees with a decodable one on the evaluated bits decodes to the same instruction (R101). -/
theorem decode_congr {w w' : Word} {i : Instr} (hd : decode w = .ok i)
    (h : w' &&& i.usedBits = w &&& i.usedBits) : decode w' = .ok i := by
  have hop : i.opcode = byte1 w := opcode_of_decodeBytes hd
  have hop' : byte1 w' = byte1 w := extractByte_eq_of_and_eq 24 h (byte1_usedBits i)
  rw [decode, ← hop] at hd
  rw [decode, hop', ← hop]
  exact decodeBytes_congr hd (extractByte_eq_of_and_eq 16 h) (extractByte_eq_of_and_eq 8 h)
    (extractByte_eq_of_and_eq 0 h)

/-- Words with the same opcode byte decode to instructions of the same opcode (R101). -/
theorem decode_of_byte1_eq {w w' : Word} {i : Instr} (hd : decode w = .ok i) (h : byte1 w' = byte1 w) :
    ∃ i', decode w' = .ok i' ∧ i'.opcode = i.opcode := by
  have hop : i.opcode = byte1 w := opcode_of_decodeBytes hd
  rw [decode, h, ← hop]
  exact decodeBytes_opcode i _ _ _

/-! ### The obligation -/

/-- Settles O3: the evaluated bits fix the instruction, and the opcode byte alone fixes its opcode. -/
theorem unusedBytesAreIgnored : Obligations.UnusedBytesAreIgnored :=
  fun _ _ _ hd => ⟨decode_congr hd, decode_of_byte1_eq hd⟩

end Sys2Proof

/-! PROOFS. NOP, EOP and the machine that is off (40_control.md R130, R131; 10_state.md R50). A state whose own
step leads back to it is a fixed point of every run; a machine that is off is such a state. -/

namespace Sys2Proof.Machine

/-! ### Runs that stand still -/

/-- A state that one step leaves as it is stays as it is for any number of steps, on any machine. -/
theorem run_eq_next_of_step_self {M : Host.Core} {s : M.State} (h : M.step s = .next s) (k : Nat) :
    M.run k s = .next s := by
  induction k with
  | zero => rfl
  | succ k ih => rw [Host.Core.run, h]; exact ih

/-- A machine that is off does nothing in a step (10_state.md R50). -/
theorem step_of_off {s : State} (h : s.run = .off) : step s = .next s := by
  rw [step, h]

/-- A machine that is off stands still for any number of steps (10_state.md R50). -/
theorem run_of_off {s : State} (h : s.run = .off) (k : Nat) : Sys2Proof.core.run k s = .next s :=
  run_eq_next_of_step_self (M := Sys2Proof.core) (step_of_off h) k

/-! ### The two instructions -/

/-- Opcode 0x00 evaluates none of the other bytes (30_encoding.md R93, R101). -/
theorem decode_joinBytes_nop (b2 b3 b4 : Byte) : decode (joinBytes 0x00 b2 b3 b4) = .ok .nop := by
  rw [decode_joinBytes]; rfl

/-- Opcode 0x04 evaluates none of the other bytes (30_encoding.md R93, R101). -/
theorem decode_joinBytes_eop (b2 b3 b4 : Byte) : decode (joinBytes 0x04 b2 b3 b4) = .ok .eop := by
  rw [decode_joinBytes]; rfl

/-- NOP has no effect of its own (40_control.md R130). -/
@[simp] theorem exec_nop (s : State) : exec .nop s = .next s := rfl

/-- EOP's one effect is on the run state (40_control.md R131). -/
@[simp] theorem exec_eop (s : State) : exec .eop s = .next s.switchOff := rfl

/-! ### The obligations -/

/-- Settles O17: the decoder ignores the operand bytes, and NOP has no effect. -/
theorem nopDoesNothing : Obligations.NopDoesNothing :=
  fun s b2 b3 b4 => ⟨decode_joinBytes_nop b2 b3 b4, exec_nop s⟩

/-- Settles O18: EOP leads to the machine switched off, which is a fixed point of every run. -/
theorem eopSwitchesOff : Obligations.EopSwitchesOff :=
  fun s b2 b3 b4 =>
    ⟨decode_joinBytes_eop b2 b3 b4, s.switchOff, exec_eop s, rfl, run_of_off (switchOff_run s)⟩

end Sys2Proof.Machine

/-! PROOFS. GO, and the four names without a definition (46_subroutine.md R245 to R247, 47_system_io.md R256,
R257). GO writes PC without a check, so its target meets the memory bound only at the fetch of the next step. -/

namespace Sys2Proof.Machine

open Sys2Proof.Claim

/-! ### The fetch that leaves memory -/

/-- A machine that is on faults before IR and PC change when a byte of the word at PC lies above `MAXADDR`
(60_exceptions.md R274, R281). -/
theorem step_of_fetch_outside (s : State) (hon : s.run = .on) (hpc : s.cfg.memSize < s.pc.toNat + 4) :
    step s = .fault (.memRange s.pc.toNat (stoppedBy s .memRange)) := by
  have hout : s.inMem s.pc.toNat 4 = false := decide_eq_false (by omega)
  simp [step, hon, cycle, hout, raise, faultedBy_eq_stoppedBy]

/-! ### GO -/

/-- Opcode 0x90 evaluates the register byte alone (30_encoding.md R95, R101). -/
theorem decode_joinBytes_go (x : RegNum) (b3 b4 : Byte) : decode (joinBytes 0x90 x b3 b4) = .ok (.go x) := by
  rw [decode_joinBytes]; rfl

/-- With a valid register byte, GO's one effect besides the read is on PC (46_subroutine.md R245). -/
theorem exec_go_of_regOf (s : State) {x : RegNum} {rx : Reg} (h : regOf x = some rx) :
    exec (.go x) s = .next (setPc (afterRead s rx) (readReg s rx)) :=
  withReg_some s x _ rx h

/-! ### The names without a definition -/

section
variable (b2 b3 b4 : Byte)

/-- Opcode 0x91 evaluates all three other bytes as one number (30_encoding.md R92, R94). -/
theorem decode_joinBytes_call : decode (joinBytes 0x91 b2 b3 b4) = .ok (.call (b2 ++ b3 ++ b4)) := by
  rw [decode_joinBytes]; rfl

/-- Opcode 0x92 evaluates none of the other bytes (30_encoding.md R93, R101). -/
theorem decode_joinBytes_ret : decode (joinBytes 0x92 b2 b3 b4) = .ok .ret := by
  rw [decode_joinBytes]; rfl

/-- Opcode 0xB0 evaluates none of the other bytes (30_encoding.md R101). -/
theorem decode_joinBytes_inp : decode (joinBytes 0xB0 b2 b3 b4) = .ok .inp := by
  rw [decode_joinBytes]; rfl

/-- Opcode 0xB1 evaluates none of the other bytes (30_encoding.md R101). -/
theorem decode_joinBytes_out : decode (joinBytes 0xB1 b2 b3 b4) = .ok .out := by
  rw [decode_joinBytes]; rfl

end

/-- The spec gives CALL no effect (46_subroutine.md R246). -/
@[simp] theorem exec_call (n : Imm24) (s : State) : exec (.call n) s = .refused .callNotDefined := rfl

/-- The spec gives RET no effect (46_subroutine.md R247). -/
@[simp] theorem exec_ret (s : State) : exec .ret s = .refused .retNotDefined := rfl

/-- The spec gives IN no effect (47_system_io.md R256). -/
@[simp] theorem exec_inp (s : State) : exec .inp s = .refused .inNotDefined := rfl

/-- The spec gives OUT no effect (47_system_io.md R257). -/
@[simp] theorem exec_out (s : State) : exec .out s = .refused .outNotDefined := rfl

/-! ### The obligations -/

/-- Settles O39: the state after GO has the target in PC and the run state and memory size of before, so the
next step faults exactly as a fetch outside memory does. -/
theorem goResult : Obligations.GoResult := by
  intro s x b3 b4 rx hx
  refine ⟨decode_joinBytes_go x b3 b4, exec_go_of_regOf s hx, fun hon hout => ?_⟩
  have hrun : (setPc (afterRead s rx) (readReg s rx)).run = .on := by rw [setPc_run, afterRead_run, hon]
  have hcfg : (setPc (afterRead s rx) (readReg s rx)).cfg = s.cfg := by rw [setPc_cfg, afterRead_cfg]
  rw [← hcfg] at hout
  exact step_of_fetch_outside _ hrun hout

/-- Settles O41: each of the four opcodes decodes with any operand bytes, and its instruction is a refusal. -/
theorem undefinedNamesAreRefused : Obligations.UndefinedNamesAreRefused :=
  fun s b2 b3 b4 n =>
    ⟨⟨decode_joinBytes_call b2 b3 b4, exec_call n s⟩, ⟨decode_joinBytes_ret b2 b3 b4, exec_ret s⟩,
      ⟨decode_joinBytes_inp b2 b3 b4, exec_inp s⟩, ⟨decode_joinBytes_out b2 b3 b4, exec_out s⟩⟩

end Sys2Proof.Machine

/-! PROOFS. An unassigned opcode (60_exceptions.md R275). A byte is in the list of assigned opcodes exactly if some
instruction has it as its opcode, and an instruction's opcode decodes whatever the operand bytes are. -/

namespace Sys2Proof.Machine

open Sys2Proof.Claim

/-! ### The assigned opcodes (30_encoding.md R111, R113) -/

theorem opcode_mem_assigned (i : Instr) : i.opcode ∈ assigned := by
  cases i <;> rw [Instr.opcode] <;> decide

/-- Every assigned opcode decodes, here with operand bytes 0. -/
theorem decodeBytes_zeros_isSome : ∀ b ∈ assigned, (decodeBytes b 0 0 0).toOption.isSome = true := by decide

/-- Every assigned opcode is an instruction's. -/
theorem exists_opcode_of_mem_assigned {b : Byte} (h : b ∈ assigned) : ∃ i : Instr, i.opcode = b := by
  have hsome := decodeBytes_zeros_isSome b h
  cases hd : decodeBytes b 0 0 0 with
  | ok i => exact ⟨i, opcode_of_decodeBytes hd⟩
  | error e => rw [hd] at hsome; cases hsome

/-- A word with an assigned first byte decodes, whatever its other bytes are (R112). -/
theorem decode_of_mem_assigned {w : Word} (h : byte1 w ∈ assigned) : ∃ i, decode w = .ok i := by
  obtain ⟨i, hop⟩ := exists_opcode_of_mem_assigned h
  obtain ⟨i', hd, -⟩ := decodeBytes_opcode i (byte2 w) (byte3 w) (byte4 w)
  exact ⟨i', by rw [decode, ← hop, hd]⟩

/-- The decoder's error names the opcode byte (R113). -/
theorem error_of_decodeBytes {b1 b2 b3 b4 : Byte} {e : DecodeError} (h : decodeBytes b1 b2 b3 b4 = .error e) :
    e = .illegalOpcode b1 := by
  unfold decodeBytes at h
  split at h <;> cases h
  rfl

/-- A word with an unassigned first byte does not decode (R113). -/
theorem decode_of_not_mem_assigned {w : Word} (h : byte1 w ∉ assigned) :
    decode w = .error (.illegalOpcode (byte1 w)) := by
  cases hd : decode w with
  | ok i =>
    have hop : i.opcode = byte1 w := opcode_of_decodeBytes hd
    exact absurd (hop ▸ opcode_mem_assigned i) h
  | error e => rw [error_of_decodeBytes hd]

/-! ### The fault -/

/-- A fetched word that does not decode faults after IR and PC have changed (60_exceptions.md R275, R281). -/
theorem step_of_decode_error (s : State) (op : Byte) (hf : Fetches s)
    (hd : decode (fetchWord s) = .error (.illegalOpcode op)) :
    step s = .fault (.illegalOpcode op (stoppedBy (afterFetch s) .illegalOpcode)) := by
  obtain ⟨hon, hmem⟩ := hf
  have hin : s.inMem s.pc.toNat 4 = true := decide_eq_true hmem
  simp [step, hon, cycle, hin, hd, raise, faultedBy_eq_stoppedBy]

/-! ### The obligation -/

/-- Settles O5: the first byte alone decides whether the fetched word decodes, and the step's fault leaves the
machine as the fetch did. -/
theorem unassignedOpcodeFaults : Obligations.UnassignedOpcodeFaults :=
  fun s => ⟨decode_of_mem_assigned,
    fun hf hop => step_of_decode_error s _ hf (decode_of_not_mem_assigned hop)⟩

end Sys2Proof.Machine

/-! PROOFS. Invalid register bytes (60_exceptions.md R276, R281). Every instruction first names the registers of its
register positions, in order, and only then acts; `ChecksRegs` says so, and what a byte from 42 on does follows by
induction on the register positions. -/

namespace Sys2Proof.Machine

open Sys2Proof.Claim

/-- The outcome is no InvalidRegister fault. -/
def NoInvalidRegister (o : Out) : Prop := ∀ n t, o ≠ .fault (.invalidRegister n t)

/-- The outcome comes from checking the register bytes `ns` in order and then, when each of them names a register,
from an action on `s` that raises no InvalidRegister itself. -/
inductive ChecksRegs (s : State) : List RegNum → Out → Prop where
  | act (o : Out) : NoInvalidRegister o → ChecksRegs s [] o
  | reg (n : RegNum) (ns : List RegNum) (go : Reg → Out) :
      (∀ r, ChecksRegs s ns (go r)) → ChecksRegs s (n :: ns) (withReg s n go)

/-! ### What a checked instruction does with a bad and with good bytes -/

/-- The first byte from 42 on is the one that faults, and nothing but the fault happens. -/
theorem ChecksRegs.fault_of_find? {s : State} {ns : List RegNum} {o : Out} (h : ChecksRegs s ns o) (n : RegNum)
    (hn : ns.find? (fun b => decide (42 ≤ b.toNat)) = some n) :
    o = .fault (.invalidRegister n (stoppedBy s .invalidRegister)) := by
  induction h with
  | act o _ => cases hn
  | reg m ns go _ ih =>
    by_cases hm : 42 ≤ m.toNat
    · rw [List.find?_cons_of_pos (by simpa using hm)] at hn
      cases hn
      exact withReg_of_le s n go hm
    · rw [List.find?_cons_of_neg (by simpa using hm)] at hn
      obtain ⟨r, hr⟩ := regOf_of_valid m (decide_eq_true (by omega))
      rw [withReg_some s m go r hr]
      exact ih r hn

/-- Where every byte names a register, InvalidRegister is not raised. -/
theorem ChecksRegs.noInvalidRegister {s : State} {ns : List RegNum} {o : Out} (h : ChecksRegs s ns o)
    (hv : ns.all RegNum.valid = true) : NoInvalidRegister o := by
  induction h with
  | act o ho => exact ho
  | reg m ns go _ ih =>
    rw [List.all_cons, Bool.and_eq_true] at hv
    obtain ⟨hm, hns⟩ := hv
    obtain ⟨r, hr⟩ := regOf_of_valid m hm
    rw [withReg_some s m go r hr]
    exact ih r hns

section
variable {s : State}

/-! ### The actions that raise no InvalidRegister -/

theorem noInvalidRegister_next (t : State) : NoInvalidRegister (.next t) := nofun

theorem noInvalidRegister_refuse (q : Refusal) : NoInvalidRegister (refuse q) := nofun

/-- `raise` raises what it is given. -/
theorem noInvalidRegister_raise {e : MachineError} (he : ∀ n, e ≠ .invalidRegister n) :
    NoInvalidRegister (raise e s) := by
  intro n t
  cases e with
  | invalidRegister m => exact absurd rfl (he m)
  | writeProtected r => simp only [raise]; split <;> nofun
  | _ => nofun

/-- A register write faults as WriteProtected alone. -/
theorem noInvalidRegister_writeReg {base done : State} (hc : done.cfg = base.cfg) (r : Reg) (v : Word) :
    NoInvalidRegister (writeReg base done r v) :=
  fun _ _ h => nomatch writeReg_fault base done r v _ hc h

theorem noInvalidRegister_writeModulo (entry done : State) (r : Reg) (n d : Word) :
    NoInvalidRegister (writeModulo entry done r n d) := by
  unfold writeModulo
  split
  · exact noInvalidRegister_writeReg (setHiLo_cfg done _) r _
  · exact noInvalidRegister_raise nofun

theorem noInvalidRegister_popWrites (r : Reg) (v : Word) : NoInvalidRegister (popWrites s r v) := by
  unfold popWrites
  split
  · split
    · exact noInvalidRegister_raise nofun
    · split
      · exact noInvalidRegister_raise nofun
      · exact noInvalidRegister_next _
  · exact noInvalidRegister_writeReg (by rfl) r v

theorem noInvalidRegister_execInt (n : Imm24) : NoInvalidRegister (execInt n s) := by
  unfold execInt
  split
  · exact noInvalidRegister_refuse _
  · exact noInvalidRegister_next _
  · exact noInvalidRegister_next _

/-! ### One, two and three register positions -/

theorem checksRegs_withReg {x : RegNum} {go : Reg → Out} (h : ∀ rx, NoInvalidRegister (go rx)) :
    ChecksRegs s [x] (withReg s x go) :=
  .reg x [] go fun rx => .act _ (h rx)

theorem checksRegs_withRegs2 {x y : RegNum} {go : Reg → Reg → Out} (h : ∀ rx ry, NoInvalidRegister (go rx ry)) :
    ChecksRegs s [x, y] (withRegs2 s x y go) :=
  .reg x [y] _ fun rx => checksRegs_withReg (h rx)

theorem checksRegs_withRegs3 {x y z : RegNum} {go : Reg → Reg → Reg → Out}
    (h : ∀ rx ry rz, NoInvalidRegister (go rx ry rz)) : ChecksRegs s [x, y, z] (withRegs3 s x y z go) :=
  .reg x [y, z] _ fun rx => checksRegs_withRegs2 (h rx)

/-! ### The operand forms -/

theorem checksRegs_formRRR (f : Word → Word → Word) (x y z : RegNum) :
    ChecksRegs s [x, y, z] (formRRR f x y z s) :=
  checksRegs_withRegs3 fun _ _ _ => noInvalidRegister_writeReg rfl _ _

theorem checksRegs_formRR (f : Word → Word) (x y : RegNum) : ChecksRegs s [x, y] (formRR f x y s) :=
  checksRegs_withRegs2 fun _ _ => noInvalidRegister_writeReg rfl _ _

theorem checksRegs_formRN (v : Word) (x : RegNum) : ChecksRegs s [x] (formRN v x s) :=
  checksRegs_withReg fun _ => noInvalidRegister_writeReg rfl _ _

theorem checksRegs_formR (f : Word → Word) (x : RegNum) : ChecksRegs s [x] (formR f x s) :=
  checksRegs_withReg fun _ => noInvalidRegister_writeReg rfl _ _

theorem checksRegs_formHiLo (f : Word → Word → Option (Word × Word)) (x y : RegNum) :
    ChecksRegs s [x, y] (formHiLo f x y s) := by
  refine checksRegs_withRegs2 fun rx ry => ?_
  split
  · exact noInvalidRegister_next _
  · exact noInvalidRegister_raise nofun

theorem checksRegs_formHiLoImm (f : Word → Option (Word × Word)) (x : RegNum) :
    ChecksRegs s [x] (formHiLoImm f x s) := by
  refine checksRegs_withReg fun rx => ?_
  split
  · exact noInvalidRegister_next _
  · exact noInvalidRegister_raise nofun

theorem checksRegs_branchIf (c : Bool) (n : Int) : ChecksRegs s [] (branchIf c n s) := by
  rw [branchIf_eq]
  exact .act _ (noInvalidRegister_next _)

/-! ### Load and store -/

/-- An access that is checked against the memory size, and does `o` inside memory. -/
theorem noInvalidRegister_memAccess {o : Out} (a n : Nat) (h : NoInvalidRegister o) :
    NoInvalidRegister (if s.inMem a n then o else raise (.memRange a) s) := by
  split
  · exact h
  · exact noInvalidRegister_raise nofun

theorem checksRegs_execLb (x y z : RegNum) : ChecksRegs s [x, y, z] (execLb x y z s) :=
  checksRegs_withRegs3 fun _ _ _ => noInvalidRegister_memAccess _ _ (noInvalidRegister_writeReg rfl _ _)

theorem checksRegs_execLw (x y z : RegNum) : ChecksRegs s [x, y, z] (execLw x y z s) :=
  checksRegs_withRegs3 fun _ _ _ => noInvalidRegister_memAccess _ _ (noInvalidRegister_writeReg rfl _ _)

theorem checksRegs_execSb (x y z : RegNum) : ChecksRegs s [x, y, z] (execSb x y z s) :=
  checksRegs_withRegs3 fun _ _ _ => noInvalidRegister_memAccess _ _ (noInvalidRegister_next _)

theorem checksRegs_execSw (x y z : RegNum) : ChecksRegs s [x, y, z] (execSw x y z s) :=
  checksRegs_withRegs3 fun _ _ _ => noInvalidRegister_memAccess _ _ (noInvalidRegister_next _)

theorem checksRegs_execPush (x : RegNum) : ChecksRegs s [x] (execPush x s) := by
  refine checksRegs_withReg fun rx => ?_
  dsimp only
  split
  · exact noInvalidRegister_raise nofun
  · exact noInvalidRegister_memAccess _ _ (noInvalidRegister_next _)

theorem checksRegs_execPop (x : RegNum) : ChecksRegs s [x] (execPop x s) := by
  refine checksRegs_withReg fun rx => noInvalidRegister_memAccess _ _ ?_
  split
  · exact noInvalidRegister_raise nofun
  · exact noInvalidRegister_popWrites rx _

end

/-! ### Every instruction -/

/-- Every instruction checks exactly its register positions, and nothing after that raises InvalidRegister. -/
theorem exec_checksRegs (i : Instr) (s : State) : ChecksRegs s i.regs (exec i s) := by
  cases i with
  | nop | eop => exact .act _ (noInvalidRegister_next _)
  | call | ret | inp | out => exact .act _ (noInvalidRegister_refuse _)
  | int n => exact .act _ (noInvalidRegister_execInt n)
  | be | bne | bl | ble | bg | bge | jmp =>
    dsimp only [exec, execBe, execBne, execBl, execBle, execBg, execBge, execJmp]
    exact checksRegs_branchIf _ _
  | set | noti =>
    dsimp only [exec, execSet, execNoti]
    exact checksRegs_formRN _ _
  | inc | dec =>
    dsimp only [exec, execInc, execDec]
    exact checksRegs_formR _ _
  | muli | divi =>
    dsimp only [exec, execMuli, execDivi]
    exact checksRegs_formHiLoImm _ _
  | mul | mulu | div | divu =>
    dsimp only [exec, execMul, execMulu, execDiv, execDivu]
    exact checksRegs_formHiLo _ _ _
  | push x => exact checksRegs_execPush x
  | pop x => exact checksRegs_execPop x
  | lb x y z => exact checksRegs_execLb x y z
  | lw x y z => exact checksRegs_execLw x y z
  | sb x y z => exact checksRegs_execSb x y z
  | sw x y z => exact checksRegs_execSw x y z
  | cmp | cmpu => exact checksRegs_withRegs2 fun _ _ => noInvalidRegister_next _
  | cmpi | go => exact checksRegs_withReg fun _ => noInvalidRegister_next _
  | mod => exact checksRegs_withRegs3 fun _ _ _ => noInvalidRegister_writeModulo _ _ _ _ _
  | modi => exact checksRegs_withRegs2 fun _ _ => noInvalidRegister_writeModulo _ _ _ _ _
  | add | addu | sub | subu | and | or | xor | nand | nor | shl | shr | shra | rotl | rotr =>
    dsimp only [exec, execAdd, execAddu, execSub, execSubu, execAnd, execOr, execXor, execNand, execNor, execShl,
      execShr, execShra, execRotl, execRotr]
    exact checksRegs_formRRR _ _ _ _
  | cp | abs | neg | not | addi | subi | andi | ori | xori | nandi | nori | shli | shri | shrai | rotli | rotri =>
    dsimp only [exec, execCp, execAbs, execNeg, execNot, execAddi, execSubi, execAndi, execOri, execXori, execNandi,
      execNori, execShli, execShri, execShrai, execRotli, execRotri]
    exact checksRegs_formRR _ _ _

/-! ### The obligation -/

/-- Settles O15: both clauses hold of every outcome that comes from checking the register positions first. -/
theorem invalidRegisterFaultsFirst : Obligations.InvalidRegisterFaultsFirst :=
  fun i s => ⟨(exec_checksRegs i s).fault_of_find?, (exec_checksRegs i s).noInvalidRegister⟩

end Sys2Proof.Machine

/-! PROOFS. Zero divisors (60_exceptions.md R278). The two divisions answer nothing for divisor 0, and the operand
forms of the dividing instructions turn that into the fault of the state before any read. -/

namespace Sys2Proof.Machine

open Sys2Proof.Claim

/-! ### Division by zero -/

@[simp] theorem divSigned_zero (n : Word) : divSigned n 0 = none := rfl

@[simp] theorem divUnsigned_zero (n : Word) : divUnsigned n 0 = none := rfl

/-! ### The operand forms -/

section
variable (s : State) {x y : RegNum} {rx ry : Reg}

theorem formHiLo_of_none {f : Word → Word → Option (Word × Word)} (hx : regOf x = some rx) (hy : regOf y = some ry)
    (hf : f (readReg s rx) (readSecond s rx ry) = none) :
    formHiLo f x y s = .fault (.divideByZero (stoppedBy s .divideByZero)) := by
  rw [formHiLo, withRegs2_some s x y _ rx ry hx hy, hf]
  rfl

theorem formHiLoImm_of_none {f : Word → Option (Word × Word)} (hx : regOf x = some rx)
    (hf : f (readReg s rx) = none) :
    formHiLoImm f x s = .fault (.divideByZero (stoppedBy s .divideByZero)) := by
  rw [formHiLoImm, withReg_some s x _ rx hx, hf]
  rfl

/-- The fault leaves the machine before the reads, `s`, and not the one after them. -/
theorem writeModulo_zero (after : State) (rx : Reg) (n : Word) :
    writeModulo s after rx n 0 = .fault (.divideByZero (stoppedBy s .divideByZero)) := by
  rw [writeModulo, divUnsigned_zero]
  rfl

end

/-! ### The obligation -/

/-- Settles O30: each dividing instruction reaches a division by 0 through its operand form. -/
theorem zeroDivisorFaults : Obligations.ZeroDivisorFaults := by
  intro s x y z rx ry rz hx hy hz
  refine ⟨fun h0 => ⟨?div, ?divu⟩, ?divi, fun h0 => ?mod, ?modi⟩
  case div => exact formHiLo_of_none s hx hy (by rw [h0, divSigned_zero])
  case divu => exact formHiLo_of_none s hx hy (by rw [h0, divUnsigned_zero])
  case divi =>
    rw [exec, execDivi]
    exact formHiLoImm_of_none s hx (divSigned_zero _)
  case mod =>
    rw [exec, execMod, withRegs3_some s x y z _ rx ry rz hx hy hz, h0]
    exact writeModulo_zero s _ rx _
  case modi =>
    rw [exec, execModi, withRegs2_some s x y _ rx ry hx hy]
    exact writeModulo_zero s _ rx _

end Sys2Proof.Machine

/-! PROOFS. Decoding and encoding undo each other (30_encoding.md R91 to R100, R111, R112). The encoder writes the
opcode and the operand bytes of the format, the decoder reads them back; what it does not read is cleared. -/

namespace Sys2Proof

/-! ### From an instruction to its word and back -/

/-- The decoder reads the operand bytes the encoder writes, a number of two or three bytes joined again. -/
theorem decodeBytes_operands (i : Instr) :
    decodeBytes i.opcode i.operands.1 i.operands.2.1 i.operands.2.2 = .ok i := by
  cases i with
  | set x n | muli x n | divi x n | noti x n | cmpi x n =>
    dsimp only [Instr.opcode, Instr.operands, decodeBytes]
    rw [join16_bytes]
    rfl
  | be n | bne n | bl n | ble n | bg n | bge n | jmp n | call n | int n =>
    dsimp only [Instr.opcode, Instr.operands, decodeBytes]
    rw [join24_bytes]
    rfl
  | _ => rfl

/-- Settles O1: the encoded word's bytes are the opcode and the operand bytes, which the decoder reads back. -/
theorem decodeEncodeRoundTrip : Obligations.DecodeEncodeRoundTrip := by
  intro i
  rw [decode_encode_bytes]
  exact decodeBytes_operands i

/-! ### From a word to its instruction and back -/

section
variable (b1 b2 b3 b4 : Byte)

@[simp] theorem extractHigh_join16 : (join16 b3 b4).extractLsb' 8 8 = b3 := by
  apply BitVec.eq_of_getLsbD_eq; intro i hi
  simp only [join16, BitVec.getLsbD_extractLsb', BitVec.getLsbD_append]
  grind

@[simp] theorem extractLow_join16 : (join16 b3 b4).extractLsb' 0 8 = b4 := by
  apply BitVec.eq_of_getLsbD_eq; intro i hi
  simp only [join16, BitVec.getLsbD_extractLsb', BitVec.getLsbD_append]
  grind

@[simp] theorem extractHigh_join24 : (join24 b2 b3 b4).extractLsb' 16 8 = b2 := by
  apply BitVec.eq_of_getLsbD_eq; intro i hi
  simp only [join24, BitVec.getLsbD_extractLsb', BitVec.getLsbD_append]
  grind

@[simp] theorem extractMiddle_join24 : (join24 b2 b3 b4).extractLsb' 8 8 = b3 := by
  apply BitVec.eq_of_getLsbD_eq; intro i hi
  simp only [join24, BitVec.getLsbD_extractLsb', BitVec.getLsbD_append]
  grind

@[simp] theorem extractLow_join24 : (join24 b2 b3 b4).extractLsb' 0 8 = b4 := by
  apply BitVec.eq_of_getLsbD_eq; intro i hi
  simp only [join24, BitVec.getLsbD_extractLsb', BitVec.getLsbD_append]
  grind

/-- A mask made of bytes masks byte by byte. -/
theorem joinBytes_and (m1 m2 m3 m4 : Byte) :
    joinBytes b1 b2 b3 b4 &&& joinBytes m1 m2 m3 m4 =
      joinBytes (b1 &&& m1) (b2 &&& m2) (b3 &&& m3) (b4 &&& m4) := by
  have pair {v w : Nat} (a a' : BitVec v) (c c' : BitVec w) : (a ++ c) &&& (a' ++ c') = (a &&& a') ++ (c &&& c') :=
    BitVec.and_append
  exact (pair _ _ _ _).trans (congrArg (· ++ _) ((pair _ _ _ _).trans (congrArg (· ++ _) (pair _ _ _ _))))

end

/-- A word's operand bytes b2, b3, b4 (R91), those bits alone that a mask keeps. -/
def maskedOperands (m : Word) (b2 b3 b4 : Byte) : Byte × Byte × Byte :=
  (b2 &&& byte2 m, b3 &&& byte3 m, b4 &&& byte4 m)

section
variable (b2 b3 b4 : Byte)

theorem maskedOperands_none : maskedOperands 0xFF000000 b2 b3 b4 = (0, 0, 0) :=
  congrArg₂ Prod.mk BitVec.and_zero (congrArg₂ Prod.mk BitVec.and_zero BitVec.and_zero)

theorem maskedOperands_one : maskedOperands 0xFFFF0000 b2 b3 b4 = (b2, 0, 0) :=
  congrArg₂ Prod.mk BitVec.and_allOnes (congrArg₂ Prod.mk BitVec.and_zero BitVec.and_zero)

theorem maskedOperands_two : maskedOperands 0xFFFFFF00 b2 b3 b4 = (b2, b3, 0) :=
  congrArg₂ Prod.mk BitVec.and_allOnes (congrArg₂ Prod.mk BitVec.and_allOnes BitVec.and_zero)

theorem maskedOperands_all : maskedOperands 0xFFFFFFFF b2 b3 b4 = (b2, b3, b4) :=
  congrArg₂ Prod.mk BitVec.and_allOnes (congrArg₂ Prod.mk BitVec.and_allOnes BitVec.and_allOnes)

end

/-- The operand bytes of a decoded instruction are the bytes read, 0 where its format evaluates none (R93 to R101). -/
theorem operands_of_decodeBytes {b2 b3 b4 : Byte} {i : Instr} (h : decodeBytes i.opcode b2 b3 b4 = .ok i) :
    i.operands = maskedOperands i.usedBits b2 b3 b4 := by
  cases i with
  | nop | eop | ret | inp | out => exact (maskedOperands_none b2 b3 b4).symm
  | push | pop | inc | dec | go =>
    cases h
    exact (maskedOperands_one b2 b3 b4).symm
  | cp | mul | mulu | div | divu | abs | neg | not | cmp | cmpu =>
    cases h
    exact (maskedOperands_two b2 b3 b4).symm
  | set | muli | divi | noti | cmpi =>
    cases h
    dsimp only [Instr.operands]
    rw [extractHigh_join16, extractLow_join16]
    exact (maskedOperands_all b2 b3 b4).symm
  | be | bne | bl | ble | bg | bge | jmp | call | int =>
    cases h
    dsimp only [Instr.operands]
    rw [extractHigh_join24, extractMiddle_join24, extractLow_join24]
    exact (maskedOperands_all b2 b3 b4).symm
  | _ =>
    cases h
    exact (maskedOperands_all b2 b3 b4).symm

/-- Settles O2: byte by byte, the encoder writes what the mask leaves of the decoded word. -/
theorem decodedWordAgreesWithEncoding : Obligations.DecodedWordAgreesWithEncoding := by
  intro w i hd
  have hop : i.opcode = byte1 w := opcode_of_decodeBytes hd
  rw [decode, ← hop] at hd
  refine ⟨hop.symm, ?_⟩
  calc encode i
      = joinBytes (byte1 w) (byte2 w &&& byte2 i.usedBits) (byte3 w &&& byte3 i.usedBits)
          (byte4 w &&& byte4 i.usedBits) := by rw [encode, operands_of_decodeBytes hd, hop, maskedOperands]
    _ = joinBytes (byte1 w &&& byte1 i.usedBits) (byte2 w &&& byte2 i.usedBits) (byte3 w &&& byte3 i.usedBits)
          (byte4 w &&& byte4 i.usedBits) := by
        have hall : byte1 w &&& 0xFF = byte1 w := BitVec.and_allOnes
        rw [byte1_usedBits, hall]
    _ = w &&& i.usedBits := by rw [← joinBytes_and, joinBytes_bytes, joinBytes_bytes]

/-- Settles O4: each word is the encoder's own, so the round trip applies. -/
theorem sampleWordsDecode : Obligations.SampleWordsDecode := by
  have decodes (i : Instr) {w : Word} (h : encode i = w) : decode w = .ok i := h ▸ decodeEncodeRoundTrip i
  exact ⟨decodes .eop rfl, decodes (.set 2 0x1234) rfl, decodes (.cp 34 1) rfl, decodes (.sw 2 1 3) rfl,
    decodes (.push 5) rfl, decodes (.addi 1 2 5) rfl, decodes (.cmp 1 2) rfl, decodes (.bne 0xFFFFFC) rfl,
    decodes (.go 5) rfl, decodes (.int 1) rfl⟩

end Sys2Proof

/-! PROOFS. What the instructions with an explicit destination write (41_load_store.md R140, R141, 42_arithmetic.md
R160 to R165, R172 to R175, 43_logic.md R190 to R211). Each of them has one of four operand forms, whose write has
the outcome of `writeResult_writeOutcome`; what is left is that the form's function is the one the spec names. -/

namespace Sys2Proof.Machine

open Sys2Proof.Claim

/-! ### The four operand forms -/

theorem writes3_of_formRRR {e : RegNum → RegNum → RegNum → Instr} (f : Word → Word → Word)
    {g : Word → Word → Word} (he : ∀ x y z s, exec (e x y z) s = formRRR f x y z s)
    (hfg : ∀ a b, f a b = g a b) : Writes3 e g := by
  intro s x y z rx ry rz hx hy hz
  rw [he, formRRR, withRegs3_some s x y z _ rx ry rz hx hy hz, hfg]
  exact writeResult_writeOutcome _ _ _

theorem writes2_of_formRR {e : RegNum → RegNum → Instr} (f : Word → Word) {g : Word → Word}
    (he : ∀ x y s, exec (e x y) s = formRR f x y s) (hfg : ∀ a, f a = g a) : Writes2 e g := by
  intro s x y rx ry hx hy
  rw [he, formRR, withRegs2_some s x y _ rx ry hx hy, hfg]
  exact writeResult_writeOutcome _ _ _

theorem writes1_of_formRN {e : RegNum → Instr} (v : Word) {w : Word}
    (he : ∀ x s, exec (e x) s = formRN v x s) (hvw : v = w) : Writes1 e w := by
  intro s x rx hx
  rw [he, formRN, withReg_some s x _ rx hx, hvw]
  exact writeResult_writeOutcome _ _ _

theorem writesSelf_of_formR {e : RegNum → Instr} (f : Word → Word) {g : Word → Word}
    (he : ∀ x s, exec (e x) s = formR f x s) (hfg : ∀ a, f a = g a) : WritesSelf e g := by
  intro s x rx hx
  rw [he, formR, withReg_some s x _ rx hx, hfg]
  exact writeResult_writeOutcome _ _ _

/-! ### Immediates (30_encoding.md R103 to R106) -/

theorem simm16_eq_ofInt (n : Imm16) : simm16 n = BitVec.ofInt 32 n.toInt := rfl

theorem uimm16_eq_ofNat (n : Imm16) : uimm16 n = BitVec.ofNat 32 n.toNat := (BitVec.ofNat_toNat 32 n).symm

theorem uimm8_eq_ofNat (n : Imm8) : uimm8 n = BitVec.ofNat 32 n.toNat := (BitVec.ofNat_toNat 32 n).symm

@[simp] theorem toInt_simm16 (n : Imm16) : (simm16 n).toInt = n.toInt :=
  BitVec.toInt_signExtend_of_le (by decide)

@[simp] theorem toInt_simm8 (n : Imm8) : (simm8 n).toInt = n.toInt :=
  BitVec.toInt_signExtend_of_le (by decide)

@[simp] theorem toNat_uimm8 (n : Imm8) : (uimm8 n).toNat = n.toNat :=
  BitVec.toNat_setWidth_of_le (by decide)

/-! ### Set and copy -/

/-- CP writes what it read (41_load_store.md R141). -/
theorem writes_cp : Writes2 (fun x y => .cp x y) (fun a => a) :=
  writes2_of_formRR id (fun _ _ _ => rfl) fun _ => rfl

/-- Settles O19: SET and NOTI write their extended field, CP what it read. -/
theorem setCopyNotiResults : Obligations.SetCopyNotiResults :=
  ⟨fun n => writes1_of_formRN (simm16 n) (fun _ _ => rfl) (simm16_eq_ofInt n), writes_cp,
    fun n => writes1_of_formRN (~~~ (uimm16 n)) (fun _ _ => rfl) (congrArg (~~~ ·) (uimm16_eq_ofNat n))⟩

/-! ### Arithmetic -/

theorem addSigned_simm8 (a : Word) (n : Imm8) : addSigned a (simm8 n) = BitVec.ofInt 32 (a.toInt + n.toInt) := by
  rw [addSigned, toInt_simm8]

theorem subSigned_simm8 (a : Word) (n : Imm8) : subSigned a (simm8 n) = BitVec.ofInt 32 (a.toInt - n.toInt) := by
  rw [subSigned, toInt_simm8]

/-- Settles O25: the model's results are the exact ones narrowed, the 8-bit field read as a signed number. -/
theorem additionSubtractionResults : Obligations.AdditionSubtractionResults :=
  ⟨writes3_of_formRRR addSigned (fun _ _ _ _ => rfl) fun _ _ => rfl,
    writes3_of_formRRR addUnsigned (fun _ _ _ _ => rfl) fun _ _ => rfl,
    fun n => writes2_of_formRR (addSigned · (simm8 n)) (fun _ _ _ => rfl) (addSigned_simm8 · n),
    writes3_of_formRRR subSigned (fun _ _ _ _ => rfl) fun _ _ => rfl,
    writes3_of_formRRR subUnsigned (fun _ _ _ _ => rfl) fun _ _ => rfl,
    fun n => writes2_of_formRR (subSigned · (simm8 n)) (fun _ _ _ => rfl) (subSigned_simm8 · n)⟩

/-- A sum modulo 2^32 does not depend on how its operands are read (42_arithmetic.md R178). -/
theorem addSigned_eq_addUnsigned (a b : Word) : addSigned a b = addUnsigned a b := by
  rw [addSigned, addUnsigned, BitVec.ofInt_add, BitVec.ofInt_toInt, BitVec.ofInt_toInt, BitVec.ofNat_add,
    BitVec.ofNat_toNat, BitVec.ofNat_toNat, BitVec.setWidth_eq, BitVec.setWidth_eq]

theorem subSigned_eq_sub (a b : Word) : subSigned a b = a - b := by
  rw [subSigned, sub_eq_add_neg, BitVec.ofInt_add, BitVec.ofInt_neg, BitVec.ofInt_toInt, BitVec.ofInt_toInt,
    BitVec.sub_eq_add_neg]

theorem subUnsigned_eq_sub (a b : Word) : subUnsigned a b = a - b := by
  rw [subUnsigned, sub_eq_add_neg, BitVec.ofInt_add, BitVec.ofInt_neg, BitVec.ofInt_natCast, BitVec.ofInt_natCast,
    BitVec.ofNat_toNat, BitVec.ofNat_toNat, BitVec.setWidth_eq, BitVec.setWidth_eq, BitVec.sub_eq_add_neg]

/-- Settles O26: the two forms differ only in functions that agree on all words. -/
theorem signedAndUnsignedSumsAgree : Obligations.SignedAndUnsignedSumsAgree := by
  have hadd : addSigned = addUnsigned := funext₂ addSigned_eq_addUnsigned
  have hsub : subSigned = subUnsigned :=
    funext₂ fun a b => (subSigned_eq_sub a b).trans (subUnsigned_eq_sub a b).symm
  intro x y z s
  exact ⟨congrArg (formRRR · x y z s) hadd, congrArg (formRRR · x y z s) hsub⟩

theorem negSigned_eq_neg (a : Word) : negSigned a = -a := by
  rw [negSigned, BitVec.ofInt_neg, BitVec.ofInt_toInt]

theorem absSigned_eq_ofInt_abs (a : Word) : absSigned a = BitVec.ofInt 32 |a.toInt| := by
  rw [absSigned]
  split
  next h => rw [abs_of_nonneg h, BitVec.ofInt_toInt]
  next h => rw [abs_of_neg (not_le.1 h), negSigned]

theorem addUnsigned_one (a : Word) : addUnsigned a 1 = a + 1 := by
  rw [addUnsigned, BitVec.ofNat_add, BitVec.ofNat_toNat, BitVec.setWidth_eq]
  rfl

/-- Settles O31: each of the four functions is the spec's, ABS by the sign of its operand. -/
theorem unaryResults : Obligations.UnaryResults :=
  ⟨writes2_of_formRR absSigned (fun _ _ _ => rfl) absSigned_eq_ofInt_abs,
    writes2_of_formRR negSigned (fun _ _ _ => rfl) fun a => (negSigned_eq_neg a).trans (BitVec.neg_eq_not_add a),
    writesSelf_of_formR (addUnsigned · 1) (fun _ _ => rfl) addUnsigned_one,
    writesSelf_of_formR (subUnsigned · 1) (fun _ _ => rfl) (subUnsigned_eq_sub · 1)⟩

/-! ### Logic -/

/-- Settles O32: the model writes the spec's operations, and its 8-bit field is zero-extended. -/
theorem bitwiseResults : Obligations.BitwiseResults :=
  ⟨writes3_of_formRRR (· &&& ·) (fun _ _ _ _ => rfl) fun _ _ => rfl,
    writes3_of_formRRR (· ||| ·) (fun _ _ _ _ => rfl) fun _ _ => rfl,
    writes3_of_formRRR (· ^^^ ·) (fun _ _ _ _ => rfl) fun _ _ => rfl,
    writes3_of_formRRR nandWord (fun _ _ _ _ => rfl) fun _ _ => rfl,
    writes3_of_formRRR norWord (fun _ _ _ _ => rfl) fun _ _ => rfl,
    writes2_of_formRR (~~~ ·) (fun _ _ _ => rfl) fun _ => rfl,
    fun n =>
      ⟨writes2_of_formRR (· &&& uimm8 n) (fun _ _ _ => rfl) fun a => congrArg (a &&& ·) (uimm8_eq_ofNat n),
        writes2_of_formRR (· ||| uimm8 n) (fun _ _ _ => rfl) fun a => congrArg (a ||| ·) (uimm8_eq_ofNat n),
        writes2_of_formRR (· ^^^ uimm8 n) (fun _ _ _ => rfl) fun a => congrArg (a ^^^ ·) (uimm8_eq_ofNat n),
        writes2_of_formRR (nandWord · (uimm8 n)) (fun _ _ _ => rfl)
          fun a => congrArg (nandWord a) (uimm8_eq_ofNat n),
        writes2_of_formRR (norWord · (uimm8 n)) (fun _ _ _ => rfl)
          fun a => congrArg (norWord a) (uimm8_eq_ofNat n)⟩⟩

/-! ### Shifts (43_logic.md R202 to R207, R213) -/

theorem shiftLeft_eq_ofNat (a : Word) (k : Nat) : shiftLeft a k = BitVec.ofNat 32 (a.toNat * 2 ^ k) := by
  apply BitVec.eq_of_toNat_eq
  rw [shiftLeft, BitVec.toNat_ofNat]
  split
  next h => rw [BitVec.toNat_shiftLeft, Nat.shiftLeft_eq]
  next h =>
    have hdvd : 2 ^ 32 ∣ a.toNat * 2 ^ k := Dvd.dvd.mul_left (pow_dvd_pow 2 (by omega)) _
    exact (Nat.mod_eq_zero_of_dvd hdvd).symm

theorem shiftRight_eq_ofNat (a : Word) (k : Nat) : shiftRight a k = BitVec.ofNat 32 (a.toNat / 2 ^ k) := by
  have hle : a.toNat / 2 ^ k ≤ a.toNat := Nat.div_le_self _ _
  apply BitVec.eq_of_toNat_eq
  rw [shiftRight, BitVec.toNat_ofNat, Nat.mod_eq_of_lt (by omega)]
  split
  next h => rw [BitVec.toNat_ushiftRight, Nat.shiftRight_eq_div_pow]
  next h =>
    have hlt : a.toNat < 2 ^ k := a.isLt.trans_le (Nat.pow_le_pow_right (by decide) (by omega))
    exact (Nat.div_eq_of_lt hlt).symm

/-- From 31 on an arithmetic shift gives nothing but copies of the sign. -/
theorem toInt_div_two_pow_min (a : Word) (k : Nat) : a.toInt / 2 ^ min k 31 = a.toInt / 2 ^ k := by
  rcases Nat.le_total k 31 with hk | hk
  · rw [min_eq_left hk]
  · have hpow : (2 : Int) ^ 31 ≤ 2 ^ k := pow_le_pow_right₀ (by decide) hk
    have hlow : -2 ^ 31 ≤ a.toInt := BitVec.le_toInt a
    have hhigh : a.toInt < 2 ^ 31 := BitVec.toInt_lt
    rw [min_eq_right hk]
    rcases Int.lt_or_le a.toInt 0 with hneg | hpos
    · rw [Int.ediv_eq_neg_one_of_neg_of_le hneg (by omega), Int.ediv_eq_neg_one_of_neg_of_le hneg (by omega)]
    · rw [Int.ediv_eq_zero_of_lt hpos hhigh, Int.ediv_eq_zero_of_lt hpos (by omega)]

theorem shiftRightArith_eq_ofInt (a : Word) (k : Nat) :
    shiftRightArith a k = BitVec.ofInt 32 (a.toInt / (2 ^ k : Nat)) := by
  rw [shiftRightArith, ← BitVec.ofInt_toInt (x := a.sshiftRight _), BitVec.toInt_sshiftRight,
    Int.shiftRight_eq_div_pow]
  push_cast
  rw [toInt_div_two_pow_min]

/-- Settles O33: by the three lemmas that tie a shift by any amount to a power of two. -/
theorem shiftResults : Obligations.ShiftResults := by
  refine ⟨writes3_of_formRRR (fun a b => shiftLeft a b.toNat) (fun _ _ _ _ => rfl)
      fun a b => shiftLeft_eq_ofNat a b.toNat,
    writes3_of_formRRR (fun a b => shiftRight a b.toNat) (fun _ _ _ _ => rfl)
      fun a b => shiftRight_eq_ofNat a b.toNat,
    writes3_of_formRRR (fun a b => shiftRightArith a b.toNat) (fun _ _ _ _ => rfl)
      fun a b => shiftRightArith_eq_ofInt a b.toNat, fun n => ?_⟩
  rw [← toNat_uimm8 n]
  exact ⟨writes2_of_formRR (shiftLeft · (uimm8 n).toNat) (fun _ _ _ => rfl) (shiftLeft_eq_ofNat · _),
    writes2_of_formRR (shiftRight · (uimm8 n).toNat) (fun _ _ _ => rfl) (shiftRight_eq_ofNat · _),
    writes2_of_formRR (shiftRightArith · (uimm8 n).toNat) (fun _ _ _ => rfl) (shiftRightArith_eq_ofInt · _)⟩

/-! ### Rotations (43_logic.md R208 to R211, R213) -/

theorem rotLeft_eq_rotateLeft (a : Word) (k : Nat) : rotLeft a k = a.rotateLeft (k % 32) := by
  rw [BitVec.rotateLeft_mod_eq_rotateLeft, BitVec.rotateLeft_def, rotLeft]

theorem rotRight_eq_rotateRight (a : Word) (k : Nat) : rotRight a k = a.rotateRight (k % 32) := by
  rw [BitVec.rotateRight_mod_eq_rotateRight, BitVec.rotateRight_def, rotRight]

/-- Settles O34: the model's rotations are those of bit vectors. -/
theorem rotateResults : Obligations.RotateResults := by
  refine ⟨writes3_of_formRRR (fun a b => rotLeft a b.toNat) (fun _ _ _ _ => rfl)
      fun a b => rotLeft_eq_rotateLeft a b.toNat,
    writes3_of_formRRR (fun a b => rotRight a b.toNat) (fun _ _ _ _ => rfl)
      fun a b => rotRight_eq_rotateRight a b.toNat, fun n => ?_⟩
  rw [← toNat_uimm8 n]
  exact ⟨writes2_of_formRR (rotLeft · (uimm8 n).toNat) (fun _ _ _ => rfl) (rotLeft_eq_rotateLeft · _),
    writes2_of_formRR (rotRight · (uimm8 n).toNat) (fun _ _ _ => rfl) (rotRight_eq_rotateRight · _)⟩

end Sys2Proof.Machine

/-! PROOFS. Rotations as permutations of the bits (43_logic.md R208, R210, R213). -/

namespace Sys2Proof.Machine

/-! ### Where a rotation takes each bit from -/

section
variable (a : Word) (k i : Nat)

theorem getLsbD_rotLeft (hi : i < 32) : (rotLeft a k).getLsbD i = a.getLsbD ((i + (32 - k % 32)) % 32) := by
  rw [rotLeft_eq_rotateLeft, BitVec.getLsbD_rotateLeft, Nat.mod_mod]
  by_cases h : i < k % 32
  · simp only [h, decide_true, cond_true]
    congr 1; omega
  · simp only [h, hi, decide_false, decide_true, cond_false, Bool.true_and]
    congr 1; omega

theorem getLsbD_rotRight (hi : i < 32) : (rotRight a k).getLsbD i = a.getLsbD ((i + k) % 32) := by
  rw [rotRight_eq_rotateRight, BitVec.getLsbD_rotateRight, Nat.mod_mod]
  by_cases h : i < 32 - k % 32
  · simp only [h, decide_true, cond_true]
    congr 1; omega
  · simp only [h, hi, decide_false, decide_true, cond_false, Bool.true_and]
    congr 1; omega

end

/-! ### The obligation -/

/-- Settles O35: the two rotations move each bit by the same distance modulo 32, in opposite directions. -/
theorem rotationsUndoEachOther : Obligations.RotationsUndoEachOther := by
  intro a k
  refine ⟨?rightLeft, ?leftRight, ?rightAsLeft, ?leftPeriod, ?rightPeriod⟩ <;>
    apply BitVec.eq_of_getLsbD_eq <;> intro i hi
  case rightLeft =>
    rw [getLsbD_rotRight _ _ _ hi, getLsbD_rotLeft _ _ _ (by omega)]
    congr 1; omega
  case leftRight =>
    rw [getLsbD_rotLeft _ _ _ hi, getLsbD_rotRight _ _ _ (by omega)]
    congr 1; omega
  case rightAsLeft =>
    rw [getLsbD_rotRight _ _ _ hi, getLsbD_rotLeft _ _ _ hi]
    congr 1; omega
  case leftPeriod => rw [getLsbD_rotLeft _ _ _ hi, getLsbD_rotLeft _ _ _ hi, Nat.add_mod_right]
  case rightPeriod => rw [getLsbD_rotRight _ _ _ hi, getLsbD_rotRight _ _ _ hi, ← Nat.add_assoc, Nat.add_mod_right]

end Sys2Proof.Machine

/-! PROOFS. Compare and branch (44_compare.md, 45_branch.md). A compare leaves one of three words in CMPR, whose sign
is the order of its operands; a branch looks at that sign. -/

namespace Sys2Proof.Machine

open Sys2Proof.Claim

/-! ### Compare -/

/-- A machine whose CMPR took `cmp(x, y)` (44_compare.md R220). -/
theorem comparesTo_cmpResult (after : State) (x y : Int) :
    ComparesTo (.next (setCmpr after (cmpResult x y))) after x y := by
  refine ⟨fun hlt => ?less, fun heq => ?equal, fun hgt => ?greater⟩
  case less => rw [cmpResult, if_pos hlt]; rfl
  case equal => rw [cmpResult, if_neg (by omega), if_pos heq]; rfl
  case greater => rw [cmpResult, if_neg (by omega), if_neg (by omega)]; rfl

section
variable (s : State) {x y : RegNum} {rx ry : Reg}

theorem exec_cmp_of_regOf (hx : regOf x = some rx) (hy : regOf y = some ry) :
    exec (.cmp x y) s =
      .next (setCmpr (afterReads s rx ry) (cmpResult (readReg s rx).toInt (readSecond s rx ry).toInt)) :=
  withRegs2_some s x y _ rx ry hx hy

theorem exec_cmpu_of_regOf (hx : regOf x = some rx) (hy : regOf y = some ry) :
    exec (.cmpu x y) s =
      .next (setCmpr (afterReads s rx ry) (cmpResult (readReg s rx).toNat (readSecond s rx ry).toNat)) :=
  withRegs2_some s x y _ rx ry hx hy

theorem exec_cmpi_of_regOf (n : Imm16) (hx : regOf x = some rx) :
    exec (.cmpi x n) s = .next (setCmpr (afterRead s rx) (cmpResult (readReg s rx).toInt n.toInt)) := by
  rw [exec, execCmpi, withReg_some s x _ rx hx, toInt_simm16]

end

/-- Settles O36: all three put `cmp` of their operands in CMPR. -/
theorem compareResults : Obligations.CompareResults := by
  intro s x y n rx ry hx hy
  rw [exec_cmp_of_regOf s hx hy, exec_cmpu_of_regOf s hx hy, exec_cmpi_of_regOf s n hx]
  exact ⟨comparesTo_cmpResult _ _ _, comparesTo_cmpResult _ _ _, comparesTo_cmpResult _ _ _⟩

/-! ### Branch -/

/-- A branch is taken under any proposition its condition stands for (45_branch.md R230). -/
theorem branchesIf_branchIf {c : Bool} {p : Prop} (h : c = true ↔ p) (n : Int) (s : State) :
    BranchesIf (branchIf c n s) s p n := by
  rw [branchIf_eq]
  refine ⟨fun hp => ?taken, fun hp => ?notTaken⟩
  case taken => rw [if_pos (h.2 hp)]; rfl
  case notTaken => rw [if_neg (mt h.1 hp)]

/-- JMP counts forward from the PC it reads (45_branch.md R237). -/
theorem exec_jmp (n : Imm24) (s : State) :
    exec (.jmp n) s = .next (setPc s (BitVec.ofNat 32 (s.pc.toNat + 4 * n.toNat))) := by
  rw [exec, execJmp, branchIf_eq, if_pos rfl, branchTarget, jumpOffset, ← BitVec.ofInt_natCast]
  push_cast
  rfl

/-- Settles O37: each branch tests the condition on CMPR that its name says. -/
theorem branchResults : Obligations.BranchResults :=
  fun s n =>
    ⟨branchesIf_branchIf decide_eq_true_iff _ s, branchesIf_branchIf decide_eq_true_iff _ s,
      branchesIf_branchIf decide_eq_true_iff _ s, branchesIf_branchIf decide_eq_true_iff _ s,
      branchesIf_branchIf decide_eq_true_iff _ s, branchesIf_branchIf decide_eq_true_iff _ s, exec_jmp n s⟩

/-! ### Branch after compare -/

/-- The sign of `cmp(x, y)` is that of `x - y` (44_compare.md R220). -/
theorem sign_cmpResult (x y : Int) :
    (x < y ∧ (cmpResult x y).toInt = -1) ∨ (x = y ∧ (cmpResult x y).toInt = 0) ∨
      (y < x ∧ (cmpResult x y).toInt = 1) := by
  rcases lt_trichotomy x y with hlt | heq | hgt
  · exact .inl ⟨hlt, by rw [cmpResult, if_pos hlt]; rfl⟩
  · exact .inr (.inl ⟨heq, by rw [cmpResult, if_neg (by omega), if_pos heq]; rfl⟩)
  · exact .inr (.inr ⟨hgt, by rw [cmpResult, if_neg (by omega), if_neg (by omega)]; rfl⟩)

/-- A branch under a condition is a branch under an equivalent one. -/
theorem branchesIf_congr {o : Out} {s : State} {c d : Prop} {n : Int} (h : BranchesIf o s c n) (hcd : c ↔ d) :
    BranchesIf o s d n :=
  ⟨fun hd => h.1 (hcd.2 hd), fun hd => h.2 (mt hcd.1 hd)⟩

/-- Settles O38: CMP leaves a CMPR whose sign is the order of the operands, and the branches test that sign. -/
theorem branchAfterCompareFollowsOrder : Obligations.BranchAfterCompareFollowsOrder := by
  intro s t x y n rx ry hx hy ht
  rw [exec_cmp_of_regOf s hx hy] at ht
  obtain rfl := Host.Outcome.next.inj ht
  intro a b
  have hsign := sign_cmpResult a b
  obtain ⟨hbe, hbne, hbl, hble, hbg, hbge, -⟩ :=
    branchResults (setCmpr (afterReads s rx ry) (cmpResult a b)) n
  rw [setCmpr_cmpr] at hbe hbne hbl hble hbg hbge
  exact ⟨branchesIf_congr hbe (by omega), branchesIf_congr hbne (by omega), branchesIf_congr hbl (by omega),
    branchesIf_congr hble (by omega), branchesIf_congr hbg (by omega), branchesIf_congr hbge (by omega)⟩

end Sys2Proof.Machine

/-! PROOFS. PC, IR and STAT as sources (10_state.md R27, R28, R44, 92_eei_decisions.md D6, D37). -/

namespace Sys2Proof.Machine

open Sys2Proof.Claim

/-! ### Writes that always go on -/

theorem writeOutcome_gpr {o : Out} {base dn : State} {k : Fin 32} {v : Word}
    (h : WriteOutcome o base dn (.gpr k) v) : o = .next { dn with gpr := dn.gpr.set k v } := by
  obtain ⟨hgpr, -⟩ := h
  exact hgpr k rfl

theorem writeOutcome_stat {o : Out} {base dn : State} {v : Word} (h : WriteOutcome o base dn .stat v)
    (hwp : base.cfg.statWp = false) : o = .next { dn with stat := v } := by
  obtain ⟨-, -, -, -, -, -, hstat, -⟩ := h
  exact hstat rfl hwp

/-- CP to a general register goes on and sets it to what was read. -/
theorem exec_cp_gpr (s : State) {x y : RegNum} {k : Fin 32} {ry : Reg} (hx : regOf x = some (.gpr k))
    (hy : regOf y = some ry) :
    exec (.cp x y) s = .next { afterRead s ry with gpr := s.gpr.set k (readReg s ry) } := by
  rw [writeOutcome_gpr (writes_cp s x y _ _ hx hy), afterRead_gpr]

/-! ### The obligations -/

/-- Settles O9: the state the instruction sees is the one after the fetch, with PC advanced and IR loaded. -/
theorem pcAndIrAreReadAfterTheIncrement : Obligations.PcAndIrAreReadAfterTheIncrement := by
  intro s x k hf hx
  refine ⟨fun hd => ?pc, fun hd => ?ir, fun n hd => ?jmp⟩
  case pc => exact ⟨_, (step_of_fetches s _ hf hd).trans (exec_cp_gpr _ hx regOf_pc), get_set_self _ _ _⟩
  case ir => exact ⟨_, (step_of_fetches s _ hf hd).trans (exec_cp_gpr (ry := .ir) _ hx rfl), get_set_self _ _ _⟩
  case jmp =>
    refine ⟨_, (step_of_fetches s _ hf hd).trans (exec_jmp n _), ?_⟩
    rw [setPc_pc, afterFetch_pc, BitVec.ofNat_add, BitVec.ofNat_toNat, BitVec.setWidth_eq, ← BitVec.ofNat_add]

/-- Settles O16: a read takes the draw the counter points at, and a write of STAT leaves the counter alone. -/
theorem statReadIsAFreshDraw : Obligations.StatReadIsAFreshDraw := by
  intro s x k v hx
  refine ⟨exec_cp_gpr (ry := .stat) s hx rfl, fun hwp => ?write, rfl⟩
  case write => exact ⟨_, writeOutcome_stat (writes_cp s 37 x .stat _ rfl hx) hwp, rfl, rfl⟩

end Sys2Proof.Machine

/-! PROOFS. What every instruction and every step keeps. `Effect` says everything an instruction that goes on can do;
here it is read field by field, and each statement about instructions or steps is put together from that. -/

namespace Sys2Proof.Machine

open Sys2Proof.Claim

/-! ### What an update leaves of the registers -/

section
variable (s : State) (r : Reg)

@[simp] theorem content_drawn (k : Nat) : (s.drawn k).content r = s.content r := by cases r <;> rfl

theorem content_with_run (q : RunState) : ({ s with run := q } : State).content r = s.content r := by
  cases r <;> rfl

theorem content_with_mem (m : Memory) : ({ s with mem := m } : State).content r = s.content r := by cases r <;> rfl

theorem content_with_sp (v : Word) (h : r ≠ .sp) : ({ s with sp := v } : State).content r = s.content r := by
  cases r with
  | sp => exact absurd rfl h
  | _ => rfl

theorem content_setPc (v : Word) (h : r ≠ .pc) : (setPc s v).content r = s.content r := by
  cases r with
  | pc => exact absurd rfl h
  | _ => rfl

theorem content_setCmpr (v : Word) (h : r ≠ .cmpr) : (setCmpr s v).content r = s.content r := by
  cases r with
  | cmpr => exact absurd rfl h
  | _ => rfl

theorem content_setHiLo (v : Word × Word) (hhi : r ≠ .hi) (hlo : r ≠ .lo) :
    (setHiLo s v).content r = s.content r := by
  cases r with
  | hi => exact absurd rfl hhi
  | lo => exact absurd rfl hlo
  | _ => rfl

theorem content_signal (k : ErrorKind) (h : r ≠ .err) : (s.signal k).content r = s.content r := by
  cases r with
  | err => exact absurd rfl h
  | _ => rfl

theorem content_setReg (q : Reg) (v : Word) (h : r ≠ q) : (setReg s q v).content r = s.content r := by
  cases r with
  | gpr k => exact setReg_gpr_of_ne s q v k (Ne.symm h)
  | zero => rfl
  | pc => exact setReg_pc s q v
  | ir => exact setReg_ir s q v
  | sp => exact (setReg_sp s q v).trans (if_neg (Ne.symm h))
  | fp => exact (setReg_fp s q v).trans (if_neg (Ne.symm h))
  | stat => exact (setReg_stat s q v).trans (if_neg (Ne.symm h))
  | err => exact (setReg_err s q v).trans (if_neg (Ne.symm h))
  | hi => exact (setReg_hi s q v).trans (if_neg (Ne.symm h))
  | lo => exact (setReg_lo s q v).trans (if_neg (Ne.symm h))
  | cmpr => exact (setReg_cmpr s q v).trans (if_neg (Ne.symm h))

end

/-! ### What a register write keeps -/

/-- A register write keeps whatever neither the set of its register, nor a signalled error, nor the instruction's
other effects change. -/
theorem writeReg_keeps {α : Type} (f : State → α) {base done t : State} {r : Reg} {v : Word}
    (hset : f (setReg done r v) = f done) (hsignal : ∀ (u : State) (k : ErrorKind), f (u.signal k) = f u)
    (hdone : f done = f base) (h : writeReg base done r v = .next t) : f t = f base := by
  rcases writeReg_next _ _ _ _ _ h with ⟨_, _, rfl⟩ | ⟨_, _, rfl⟩ | ⟨_, _, rfl | rfl⟩
  · exact hset.trans hdone
  · exact hsignal _ _
  · exact hdone
  · exact (hsignal _ _).trans hdone

/-- ERR after a register write that does not name it (60_exceptions.md R271, R273, R277). -/
theorem writeReg_err {base done t : State} {r : Reg} {v : Word} (hr : r ≠ .err) (hdone : done.err = base.err)
    (h : writeReg base done r v = .next t) :
    t.err = base.err ∨ t.err = base.err ||| Config.errBits .spRange ∨
      t.err = base.err ||| Config.errBits .writeProtected := by
  rcases writeReg_next _ _ _ _ _ h with ⟨_, _, rfl⟩ | ⟨_, _, rfl⟩ | ⟨_, _, rfl | rfl⟩
  · exact .inl (by rw [setReg_err, if_neg hr, hdone])
  · exact .inr (.inl rfl)
  · exact .inl hdone
  · exact .inr (.inr (by rw [signal_err, hdone]))

/-- A register write leaves in SP what was there, or a value SP may take (10_state.md R25). -/
theorem writeReg_sp {base done t : State} {r : Reg} {v : Word}
    (hdone : done.sp = base.sp ∨ spValid base done.sp = true) (h : writeReg base done r v = .next t) :
    t.sp = base.sp ∨ spValid base t.sp = true := by
  rcases writeReg_next _ _ _ _ _ h with ⟨_, hv, rfl⟩ | ⟨_, _, rfl⟩ | ⟨_, _, rfl | rfl⟩
  · rw [setReg_sp]
    split
    next hr => exact .inr (hv hr)
    next => exact hdone
  · exact .inl rfl
  · exact hdone
  · exact hdone

/-! ### What an instruction other than INT keeps -/

section
variable {i : Instr} {s t : State} {k : Nat}

theorem Effect.cfg_eq (h : Effect i s k t) : t.cfg = s.cfg := by
  cases h with
  | write n r done _ v _ _ hdone hw =>
    refine writeReg_keeps (base := s.drawn k) (·.cfg) (setReg_cfg done r v) signal_cfg ?_ hw
    rcases hdone with rfl | ⟨u, rfl, _⟩ | ⟨u, rfl, _⟩ <;> rfl
  | _ => rfl

theorem Effect.statReads_eq (h : Effect i s k t) : t.statReads = k := by
  cases h with
  | write n r done _ v _ _ hdone hw =>
    refine writeReg_keeps (·.statReads) (setReg_statReads done r v) signal_statReads ?_ hw
    rcases hdone with rfl | ⟨u, rfl, _⟩ | ⟨u, rfl, _⟩ <;> rfl
  | _ => rfl

theorem Effect.run_eq (h : Effect i s k t) (hi : i ≠ .eop) : t.run = s.run := by
  cases h with
  | off he => exact absurd he hi
  | write n r done _ v _ _ hdone hw =>
    refine writeReg_keeps (base := s.drawn k) (·.run) (setReg_run done r v) signal_run ?_ hw
    rcases hdone with rfl | ⟨u, rfl, _⟩ | ⟨u, rfl, _⟩ <;> rfl
  | _ => rfl

/-- An instruction leaves memory alone, or is SB, SW or PUSH and stored inside memory (20_memory.md R62, R67). -/
theorem Effect.mem_cases (h : Effect i s k t) :
    t.mem = s.mem ∨
    (∃ x y z a b, i = .sb x y z ∧ i.storedBytes s = some (a, 1) ∧ a + 1 ≤ s.cfg.memSize ∧
      t.mem = s.mem.write a b) ∨
    (((∃ x y z, i = .sw x y z) ∨ ∃ x, i = .push x) ∧
      ∃ a v, i.storedBytes s = some (a, 4) ∧ a + 4 ≤ s.cfg.memSize ∧ t.mem = s.mem.writeWord a v) := by
  cases h with
  | storeByte x y z a b hi hb hm => exact .inr (.inl ⟨x, y, z, a, b, hi, hb, hm, rfl⟩)
  | storeWord x y z a v hi hb hm => exact .inr (.inr ⟨.inl ⟨x, y, z, hi⟩, a, v, hb, hm, rfl⟩)
  | push x v hi _ hm => exact .inr (.inr ⟨.inr ⟨x, hi⟩, _, v, by rw [hi, Instr.storedBytes], hm, rfl⟩)
  | write n r done _ v _ _ hdone hw =>
    refine .inl (writeReg_keeps (base := s.drawn k) (·.mem) (setReg_mem done r v) signal_mem ?_ hw)
    rcases hdone with rfl | ⟨u, rfl, _⟩ | ⟨u, rfl, _⟩ <;> rfl
  | _ => exact .inl rfl

theorem Effect.sp_cases (h : Effect i s k t) : t.sp = s.sp ∨ spValid s t.sp = true := by
  cases h with
  | push x v _ hv _ => exact .inr hv
  | popSp x v _ hv => exact .inr hv
  | write n r done _ v _ _ hdone hw =>
    refine writeReg_sp (base := s.drawn k) ?_ hw
    rcases hdone with rfl | ⟨u, rfl, _⟩ | ⟨u, rfl, _, hv⟩
    · exact .inl rfl
    · exact .inl rfl
    · exact .inr hv
  | _ => exact .inl rfl

/-- ERR changes only by an error that is signalled, unless it is the destination (60_exceptions.md R271). -/
theorem Effect.err_cases (h : Effect i s k t) (hd : ∀ n, i.destination = some n → regOf n ≠ some .err) :
    t.err = s.err ∨ t.err = s.err ||| Config.errBits .spRange ∨
      t.err = s.err ||| Config.errBits .writeProtected := by
  cases h with
  | stackRefused _ => exact .inr (.inl rfl)
  | write n r done _ v hn hr hdone hw =>
    refine writeReg_err (base := s.drawn k) (fun e => hd n hn (e ▸ hr)) ?_ hw
    rcases hdone with rfl | ⟨u, rfl, _⟩ | ⟨u, rfl, _⟩ <;> rfl
  | _ => exact .inl rfl

/-- An instruction without a destination signals no error, but for PUSH. -/
theorem Effect.err_eq (h : Effect i s k t) (hd : i.destination = .none) (hp : ∀ x, i ≠ .push x) :
    t.err = s.err := by
  cases h with
  | stackRefused hx =>
    obtain ⟨x, rfl | rfl⟩ := hx
    · exact absurd rfl (hp x)
    · cases hd
  | write n _ _ _ _ hn _ _ _ => rw [hd] at hn; cases hn
  | _ => rfl

/-- A register that the instruction neither names as destination nor writes by itself keeps its content, but for ERR
(10_state.md R32). -/
theorem Effect.content_eq (h : Effect i s k t) {r : Reg} (herr : r ≠ .err)
    (hd : ∀ n, i.destination = some n → regOf n ≠ some r) (hi : r ∉ i.implicitDestinations) :
    t.content r = s.content r := by
  have ne {q : Reg} (hq : q ∈ i.implicitDestinations) : r ≠ q := fun e => hi (e ▸ hq)
  rw [← content_drawn s r k]
  cases h with
  | none => rfl
  | off _ => exact content_with_run _ r _
  | jump p hp => exact content_setPc _ r p (ne hp)
  | compare v hv => exact content_setCmpr _ r v (ne hv)
  | hiLo v hhi hlo => exact content_setHiLo _ r v (ne hhi) (ne hlo)
  | storeByte | storeWord => exact content_with_mem _ r _
  | push x v hx =>
    rw [content_with_sp { s.drawn k with mem := s.mem.writeWord (Machine.pushSp s).toNat v } r _
      (ne (by rw [hx]; exact List.mem_singleton_self _))]
    exact content_with_mem _ r _
  | stackRefused _ => exact content_signal _ r _ herr
  | popSp x v hx => exact content_with_sp _ r v (ne (by rw [hx]; exact List.mem_singleton_self _))
  | write n q done _ v hn hq hdone hw =>
    refine writeReg_keeps (·.content r) (content_setReg _ r q v fun e => hd n hn (e ▸ hq))
      (fun u k => content_signal u r k herr) ?_ hw
    rcases hdone with rfl | ⟨u, rfl, hhi, hlo⟩ | ⟨u, rfl, hsp, _⟩
    · rfl
    · exact content_setHiLo _ r u (ne hhi) (ne hlo)
    · exact content_with_sp _ r u (ne hsp)

end

/-! ### The frames of an instruction -/

/-- Settles O42: each clause is one field of the instruction's effect. -/
theorem registerFrame : Obligations.RegisterFrame := by
  intro i s t hint h
  obtain ⟨k, hk, he⟩ := exec_shaped i s t hint h
  exact ⟨fun r herr hd hi => he.content_eq herr hd hi, he.err_cases, fun ⟨hd, hp⟩ => he.err_eq hd hp, he.cfg_eq,
    he.run_eq, fun hs => he.statReads_eq.trans (hk hs)⟩

/-- Settles O43: a changed byte lies among the bytes the effect stores. -/
theorem memoryFrame : Obligations.MemoryFrame := by
  intro i s t hint h a ha
  obtain ⟨k, -, he⟩ := exec_shaped i s t hint h
  rcases he.mem_cases with hm | ⟨_, _, _, b, _, _, hb, _, hm⟩ | ⟨_, b, _, hb, _, hm⟩
  · rw [hm]
  · have hout := ha b 1 hb
    rw [hm, Memory.read_write_of_ne _ _ _ _ (by omega)]
  · rw [hm, Memory.read_writeWord_of_outside _ _ _ _ (ha b 4 hb)]

/-! ### The machine's invariant -/

section
variable {s t : State}

theorem inv_iff : s.inv = true ↔
    s.cfg.legal = true ∧ s.mem.wf = true ∧ s.mem.below s.cfg.memSize = true ∧ spValid s s.sp = true := by
  simp only [State.inv, Bool.and_eq_true, and_assoc]

/-- The largest legal memory has 2^31 bytes (20_memory.md R60). -/
theorem legal_iff {c : Config} : c.legal = true ↔ 4 ≤ c.memSize ∧ c.memSize ≤ 2147483648 := decide_eq_true_iff

theorem spValid_iff {v : Word} : spValid s v = true ↔ v.toNat ≤ s.cfg.maxAddr := decide_eq_true_iff

/-- Which SP is valid depends on the parameters alone. -/
theorem spValid_congr (hc : t.cfg = s.cfg) (v : Word) : spValid t v = spValid s v := by
  rw [spValid, spValid, hc]

/-- The invariant survives whatever keeps the parameters, the range of SP, and memory canonical inside its bounds. -/
theorem inv_of_inv (hs : s.inv = true) (hc : t.cfg = s.cfg) (hsp : t.sp = s.sp ∨ spValid s t.sp = true)
    (hwf : s.mem.wf = true → t.mem.wf = true)
    (hbelow : s.mem.below s.cfg.memSize = true → t.mem.below s.cfg.memSize = true) : t.inv = true := by
  obtain ⟨hlegal, hm, hb, hv⟩ := inv_iff.1 hs
  refine inv_iff.2 ⟨hc ▸ hlegal, hwf hm, hc ▸ hbelow hb, (spValid_congr hc _).trans ?_⟩
  rcases hsp with hsp | hsp
  · rw [hsp, hv]
  · exact hsp

theorem afterFetch_inv (hs : s.inv = true) : (afterFetch s).inv = true := inv_of_inv hs rfl (.inl rfl) id id

/-- An operating system leaves a machine that meets the invariant (log entry 5). -/
theorem served_inv (h : HostAnswer) (hs : s.inv = true) : (s.served h).inv = true := by
  refine inv_of_inv hs rfl ?_ (Memory.wf_storeCells _ _ _) (Memory.below_storeCells _ _ _)
  rw [served_sp]
  split
  next hv => exact .inr hv
  next => exact .inl rfl

theorem Effect.inv_keeps {i : Instr} {k : Nat} (h : Effect i s k t) (hs : s.inv = true) : t.inv = true := by
  refine inv_of_inv hs h.cfg_eq h.sp_cases (fun hm => ?_) fun hb => ?_
  · rcases h.mem_cases with e | ⟨_, _, _, _, _, _, _, _, e⟩ | ⟨_, _, _, _, _, e⟩
    · rw [e, hm]
    · rw [e, Memory.wf_write _ _ _ hm]
    · rw [e, Memory.wf_writeWord _ _ _ hm]
  · rcases h.mem_cases with e | ⟨_, _, _, _, _, _, _, hlt, e⟩ | ⟨_, _, _, _, hle, e⟩
    · rw [e, hb]
    · rw [e, Memory.below_write _ _ _ _ hb (by omega)]
    · rw [e, Memory.below_writeWord _ _ _ _ hb hle]

theorem execInt_inv (n : Imm24) (hs : s.inv = true) (h : execInt n s = .next t) : t.inv = true := by
  rcases execInt_next n s t h with ⟨_, rfl⟩ | ⟨_, rfl⟩
  · exact hs
  · exact served_inv _ hs

/-! ### Every step -/

/-- Everything a step that goes on can be: nothing, INT, or the effect of another instruction. -/
theorem step_effect (h : step s = .next t) :
    (s.run = .off ∧ t = s) ∨
    (s.run = .on ∧ s.pc.toNat + 4 ≤ s.cfg.memSize ∧ ∃ i, decode (fetchWord s) = .ok i ∧
      ((∃ n, i = .int n ∧ execInt n (afterFetch s) = .next t) ∨ ∃ k, Effect i (afterFetch s) k t)) := by
  rcases step_next s t h with hoff | ⟨hon, hmem, i, hd, hexec⟩
  · exact .inl hoff
  · refine .inr ⟨hon, of_decide_eq_true hmem, i, hd, ?_⟩
    by_cases hint : ∃ n, i = .int n
    · obtain ⟨n, rfl⟩ := hint
      exact .inl ⟨n, rfl, hexec⟩
    · obtain ⟨k, -, he⟩ := exec_shaped i _ t (fun n e => hint ⟨n, e⟩) hexec
      exact .inr ⟨k, he⟩

/-- A step that fetches an EOP switches the machine off (40_control.md R131). -/
theorem step_eop (hf : Fetches s) (hd : decode (fetchWord s) = .ok .eop) :
    step s = .next (afterFetch s).switchOff :=
  (step_of_fetches s .eop hf hd).trans (exec_eop _)

theorem execInt_cfg (n : Imm24) (h : execInt n s = .next t) : t.cfg = s.cfg := by
  rcases execInt_next n s t h with ⟨_, rfl⟩ | ⟨_, rfl⟩ <;> rfl

theorem execInt_ir (n : Imm24) (h : execInt n s = .next t) : t.ir = s.ir := by
  rcases execInt_next n s t h with ⟨_, rfl⟩ | ⟨_, rfl⟩ <;> rfl

/-- INT leaves the run state, or switches the machine off (47_system_io.md R255). -/
theorem execInt_run (n : Imm24) (h : execInt n s = .next t) : t.run = s.run ∨ t.run = .off := by
  rcases execInt_next n s t h with ⟨_, rfl⟩ | ⟨_, rfl⟩
  · exact .inl rfl
  · rw [served_run]
    split
    · exact .inr rfl
    · exact .inl rfl

end

/-- Settles O45: each part of the invariant is kept by the fetch, by INT and by every other instruction. -/
theorem stepKeepsMachineInvariant : Obligations.StepKeepsMachineInvariant := by
  intro s t hs h
  rcases step_effect h with ⟨_, rfl⟩ | ⟨_, _, i, _, ⟨n, _, hint⟩ | ⟨k, he⟩⟩
  · exact hs
  · exact execInt_inv n (afterFetch_inv hs) hint
  · exact he.inv_keeps (afterFetch_inv hs)

/-- Settles O53: neither the fetch, nor INT, nor any other instruction's effect moves the parameters. -/
theorem parametersNeverChange : Obligations.ParametersNeverChange := by
  intro s t h
  rcases step_effect h with ⟨_, rfl⟩ | ⟨_, _, i, _, ⟨n, _, hint⟩ | ⟨k, he⟩⟩
  · rfl
  · exact (execInt_cfg n hint).trans (afterFetch_cfg s)
  · exact he.cfg_eq

/-- No instruction writes a general register by itself (10_state.md R21). -/
theorem gpr_not_mem_implicitDestinations (i : Instr) (k : Fin 32) : .gpr k ∉ i.implicitDestinations := by
  cases i <;> rw [Instr.implicitDestinations] <;> simp

/-- Settles O48: by the register frame, a general register that changed is the destination. -/
theorem generalRegistersChangeOnlyOnRequest : Obligations.GeneralRegistersChangeOnlyOnRequest := by
  intro s t k h hne
  rcases step_effect h with ⟨_, rfl⟩ | ⟨_, _, i, hd, ⟨n, rfl, _⟩ | ⟨j, he⟩⟩
  · exact absurd rfl hne
  · exact ⟨_, hd, .inr ⟨n, rfl⟩⟩
  · refine ⟨i, hd, .inl ?_⟩
    by_contra hdest
    exact hne (he.content_eq (r := .gpr k) nofun (fun n hn hr => hdest ⟨n, hn, hr⟩)
      (gpr_not_mem_implicitDestinations i k))

/-- Settles O49: an effect other than a store leaves memory as it was. -/
theorem memoryChangesOnlyByStores : Obligations.MemoryChangesOnlyByStores := by
  intro s t h hne
  rcases step_effect h with ⟨_, rfl⟩ | ⟨_, _, i, hd, ⟨n, rfl, _⟩ | ⟨j, he⟩⟩
  · exact absurd rfl hne
  · exact ⟨_, hd, .inr (.inr (.inr ⟨n, rfl⟩))⟩
  · rcases he.mem_cases with hm | ⟨x, y, z, _, _, hi, _⟩ | ⟨⟨x, y, z, hi⟩ | ⟨x, hi⟩, _⟩
    · exact absurd hm hne
    · exact ⟨i, hd, .inl ⟨x, y, z, hi⟩⟩
    · exact ⟨i, hd, .inr (.inl ⟨x, y, z, hi⟩)⟩
    · exact ⟨i, hd, .inr (.inr (.inl ⟨x, hi⟩))⟩

/-- Settles O51: what is or-ed to ERR clears no bit. -/
theorem errBitsStayUntilProgramWritesErr : Obligations.ErrBitsStayUntilProgramWritesErr := by
  intro s t h hdest hint
  have stays (e : Word) : (s.err ||| e) &&& s.err = s.err := by
    apply BitVec.eq_of_getLsbD_eq; intro j _
    rw [BitVec.getLsbD_and, BitVec.getLsbD_or]
    cases s.err.getLsbD j <;> simp
  rcases step_effect h with ⟨_, rfl⟩ | ⟨_, _, i, hd, ⟨n, rfl, _⟩ | ⟨k, he⟩⟩
  · exact BitVec.and_self
  · exact absurd hd (hint n)
  · rcases he.err_cases (fun n hn => hdest i n hd hn) with e | e | e <;> rw [e, afterFetch_err]
    · exact BitVec.and_self
    · exact stays _
    · exact stays _

/-- Settles O50: EOP always, INT by its operating system, and no other instruction moves the run state. -/
theorem onlyEopOrIntSwitchesOff : Obligations.OnlyEopOrIntSwitchesOff := by
  intro s t hon h hne
  rcases step_effect h with ⟨hoff, _⟩ | ⟨_, hpc, i, hd, ⟨n, rfl, hint⟩ | ⟨k, he⟩⟩
  · rw [hon] at hoff; cases hoff
  · refine ⟨?_, .inr ⟨n, hd⟩⟩
    rcases execInt_run n hint with hr | hr
    · exact absurd (hr.trans hon) hne
    · exact hr
  · by_cases hi : i = .eop
    · subst hi
      rw [step_eop ⟨hon, hpc⟩ hd] at h
      cases h
      exact ⟨rfl, .inl hd⟩
    · exact absurd ((he.run_eq hi).trans hon) hne

/-! ### Final states and safe runs (40_control.md R131, 60_exceptions.md R287) -/

section
variable {s t : State}

theorem byte1_of_decode {w : Word} {i : Instr} (hd : decode w = .ok i) : byte1 w = i.opcode :=
  (opcode_of_decodeBytes hd).symm

/-- A legal memory ends below 2^31, so PC does not wrap around at a fetch inside it. -/
theorem toNat_afterFetch_pc (hs : s.inv = true) (hpc : s.pc.toNat + 4 ≤ s.cfg.memSize) :
    (afterFetch s).pc.toNat = s.pc.toNat + 4 := by
  obtain ⟨hlegal, -⟩ := inv_iff.1 hs
  have hmax := legal_iff.1 hlegal
  rw [afterFetch_pc, BitVec.toNat_ofNat, Nat.mod_eq_of_lt (by omega)]

/-- The machine after a fetched EOP is in a final state. -/
theorem final_of_eop (hs : s.inv = true) (hpc : s.pc.toNat + 4 ≤ s.cfg.memSize)
    (hd : decode (fetchWord s) = .ok .eop) : (afterFetch s).switchOff.final = true := by
  have hnext := toNat_afterFetch_pc hs hpc
  refine (final_iff _).2 ⟨rfl, byte1_of_decode hd, ?_, ?_⟩
  · rw [switchOff_pc]; omega
  · rw [switchOff_pc, switchOff_mem, hnext, Nat.add_sub_cancel]; rfl

/-- The run reached a final state by the step that executed EOP: an INT that switches off leaves its own word in IR
(log entry 16). -/
theorem decode_eop_of_final (hon : s.run = .on) (h : step s = .next t) (hf : t.final = true) :
    decode (fetchWord s) = .ok .eop := by
  obtain ⟨hoff, hop, -⟩ := (final_iff t).1 hf
  rcases onlyEopOrIntSwitchesOff s t hon h (by rw [hoff]; nofun) with ⟨-, heop | ⟨n, hint⟩⟩
  · exact heop
  · rcases step_next s t h with ⟨hoff', _⟩ | ⟨_, _, i, hd, hexec⟩
    · rw [hon] at hoff'; cases hoff'
    · obtain rfl : i = .int n := Except.ok.inj (hd.symm.trans hint)
      have hir : t.ir = fetchWord s := execInt_ir n hexec
      rw [hir, byte1_of_decode hint] at hop
      exact absurd (show (0xA0 : Byte) = 0x04 from hop) (by decide)

/-- The first of several steps, of a run that goes on, on any machine. -/
theorem run_succ_eq_next {M : Host.Core} {k : Nat} {a b : M.State} :
    M.run (k + 1) a = .next b ↔ ∃ u, M.step a = .next u ∧ M.run k u = .next b := by
  rw [Host.Core.run]
  constructor
  · intro h
    cases hs : M.step a with
    | next u => rw [hs] at h; exact ⟨u, rfl, h⟩
    | fault f => rw [hs] at h; cases h
    | refused r => rw [hs] at h; cases h
  · rintro ⟨u, hs, h⟩
    rw [hs]
    exact h

theorem runsTo_succ {k : Nat} : runsTo (k + 1) s t ↔ ∃ u, step s = .next u ∧ runsTo k u t :=
  run_succ_eq_next (M := Sys2Proof.core)

end

/-- Settles O56: EOP leads to a final state, and a final state's IR rules out the only other switch-off, INT. -/
theorem onlyEopLeadsToAFinalState : Obligations.OnlyEopLeadsToAFinalState := by
  intro s t hs hon h
  have after_eop (hd : decode (fetchWord s) = .ok .eop) :
      s.pc.toNat + 4 ≤ s.cfg.memSize ∧ t = (afterFetch s).switchOff := by
    rcases step_effect h with ⟨hoff, _⟩ | ⟨_, hpc, _⟩
    · rw [hon] at hoff; cases hoff
    · rw [step_eop ⟨hon, hpc⟩ hd] at h
      exact ⟨hpc, (Host.Outcome.next.inj h).symm⟩
  refine ⟨⟨decode_eop_of_final hon h, fun hd => ?_⟩, fun hf => ?_⟩
  · obtain ⟨hpc, rfl⟩ := after_eop hd
    exact final_of_eop hs hpc hd
  · obtain ⟨hpc, rfl⟩ := after_eop (decode_eop_of_final hon h hf)
    exact ⟨toNat_afterFetch_pc hs hpc, rfl⟩

/-- A run from a running machine into a final state passes, still on, through the EOP that ends it. -/
theorem exists_eop_of_runsTo_final {s t : State} {k : Nat} (hs : s.inv = true) (hon : s.run = .on)
    (hrun : runsTo k s t) (hf : t.final = true) :
    ∃ j u t', runsTo j s u ∧ u.run = .on ∧ decode (fetchWord u) = .ok .eop ∧ runsTo (j + 1) s t' ∧
      t'.final = true := by
  induction k generalizing s with
  | zero =>
    obtain rfl : s = t := Host.Outcome.next.inj hrun
    obtain ⟨hoff, -⟩ := (final_iff s).1 hf
    rw [hon] at hoff; cases hoff
  | succ k ih =>
    obtain ⟨u, hstep, hrest⟩ := runsTo_succ.1 hrun
    by_cases hu : u.run = .on
    · obtain ⟨j, v, t', hj, hv⟩ := ih (stepKeepsMachineInvariant s u hs hstep) hu hrest
      obtain ⟨hvon, hd, hlast, hfin⟩ := hv
      exact ⟨j + 1, v, t', runsTo_succ.2 ⟨u, hstep, hj⟩, hvon, hd, runsTo_succ.2 ⟨u, hstep, hlast⟩, hfin⟩
    · obtain ⟨hoff, -⟩ := onlyEopOrIntSwitchesOff s u hon hstep hu
      obtain rfl : u = t := Host.Outcome.next.inj ((run_of_off hoff k).symm.trans hrest)
      exact ⟨0, s, u, rfl, hon, decode_eop_of_final hon hstep hf, runsTo_succ.2 ⟨u, hstep, rfl⟩, hf⟩

/-- Settles O57: the step that leaves the run state `on` is the one into the final state. -/
theorem safeRunEndsWithEop : Obligations.SafeRunEndsWithEop := by
  rintro s hs hon ⟨k, t, hrun, hf⟩
  exact exists_eop_of_runsTo_final hs hon hrun hf

end Sys2Proof.Machine

/-! PROOFS. Memory, loads and stores, and the stack (20_memory.md sections 2, 3, 6 and 8, 41_load_store.md R142 to
R147). First bytes and words, then one equation for each load and store whose register bytes are valid. -/

namespace Sys2Proof.Machine

open Sys2Proof.Claim

/-! ### Bytes of a word (20_memory.md R65, R66) -/

section
variable (w : Word)

theorem toNat_byte1 : (byte1 w).toNat = w.toNat / 256 ^ 3 % 256 := by
  rw [byte1, BitVec.extractLsb'_toNat, Nat.shiftRight_eq_div_pow]
  rfl

theorem toNat_byte2 : (byte2 w).toNat = w.toNat / 256 ^ 2 % 256 := by
  rw [byte2, BitVec.extractLsb'_toNat, Nat.shiftRight_eq_div_pow]
  rfl

theorem toNat_byte3 : (byte3 w).toNat = w.toNat / 256 ^ 1 % 256 := by
  rw [byte3, BitVec.extractLsb'_toNat, Nat.shiftRight_eq_div_pow]
  rfl

theorem toNat_byte4 : (byte4 w).toNat = w.toNat / 256 ^ 0 % 256 := by
  rw [byte4, BitVec.extractLsb'_toNat, Nat.shiftRight_eq_div_pow]
  rfl

end

/-- The merge of LB keeps the upper three bytes and takes the loaded one (41_load_store.md R142). -/
theorem mergeLowByte_eq_joinBytes (old : Word) (b : Byte) :
    mergeLowByte old b = joinBytes (byte1 old) (byte2 old) (byte3 old) b := by
  apply BitVec.eq_of_getLsbD_eq; intro i hi
  have hmask : (0xFFFFFF00 : Word).getLsbD i = decide (8 ≤ i) := by revert i; decide
  simp only [mergeLowByte, joinBytes, byte1, byte2, byte3, BitVec.getLsbD_or, BitVec.getLsbD_and, hmask,
    BitVec.truncate_eq_setWidth, BitVec.getLsbD_setWidth, BitVec.getLsbD_append, BitVec.getLsbD_extractLsb']
  grind

/-! ### Memory as data -/

/-- Settles O10: the four bytes read back are those the store cut the word into. -/
theorem wordStoreIsBigEndian : Obligations.WordStoreIsBigEndian := by
  intro m a v hm
  obtain ⟨h1, h2, h3, h4⟩ := m.read_writeWord a v hm
  refine ⟨m.readWord_writeWord a v hm, fun j => ?_, fun a' => m.read_writeWord_of_outside a a' v⟩
  match j with
  | 0 => exact (congrArg BitVec.toNat h1).trans (toNat_byte1 v)
  | 1 => exact (congrArg BitVec.toNat h2).trans (toNat_byte2 v)
  | 2 => exact (congrArg BitVec.toNat h3).trans (toNat_byte3 v)
  | 3 => exact (congrArg BitVec.toNat h4).trans (toNat_byte4 v)

theorem Memory.wfFrom_cons {lo k : Nat} {v : Byte} {rest : Memory} :
    Memory.wfFrom lo ((k, v) :: rest) = true ↔
      lo ≤ k ∧ v ≠ Memory.unlisted ∧ Memory.wfFrom (k + 1) rest = true := by
  simp only [Memory.wfFrom, Bool.and_eq_true, decide_eq_true_eq, and_assoc]

@[simp] theorem Memory.read_head (k : Nat) (v : Byte) (rest : Memory) : Memory.read ((k, v) :: rest) k = v :=
  if_pos rfl

theorem Memory.read_tail {k a : Nat} (v : Byte) (rest : Memory) (h : a ≠ k) :
    Memory.read ((k, v) :: rest) a = Memory.read rest a :=
  if_neg (Ne.symm h)

/-- Of two canonical memories that read alike, the second lists nothing below the first address the first lists. -/
theorem Memory.head_le_of_read_eq {k k' : Nat} {v v' : Byte} {rest rest' : Memory} (hv : v ≠ Memory.unlisted)
    (hrest' : Memory.wfFrom (k' + 1) rest' = true)
    (hread : ∀ a, Memory.read ((k, v) :: rest) a = Memory.read ((k', v') :: rest') a) : k' ≤ k := by
  by_contra hlt
  have hk := hread k
  rw [Memory.read_head, Memory.read_tail v' rest' (by omega),
    Memory.read_of_lt rest' (k' + 1) k hrest' (by omega)] at hk
  exact hv hk

theorem Memory.eq_of_read_eq {m m' : Memory} {lo lo' : Nat} (hm : m.wfFrom lo = true) (hm' : m'.wfFrom lo' = true)
    (hread : ∀ a, m.read a = m'.read a) : m = m' := by
  induction m generalizing lo lo' m' with
  | nil =>
    cases m' with
    | nil => rfl
    | cons c rest' =>
      obtain ⟨k', v'⟩ := c
      obtain ⟨-, hv', -⟩ := Memory.wfFrom_cons.1 hm'
      exact absurd ((hread k').trans (Memory.read_head k' v' rest')).symm hv'
  | cons c rest ih =>
    obtain ⟨k, v⟩ := c
    obtain ⟨-, hv, hrest⟩ := Memory.wfFrom_cons.1 hm
    cases m' with
    | nil => exact absurd ((Memory.read_head k v rest).symm.trans (hread k)) hv
    | cons c' rest' =>
      obtain ⟨k', v'⟩ := c'
      obtain ⟨-, hv', hrest'⟩ := Memory.wfFrom_cons.1 hm'
      obtain rfl : k = k' := le_antisymm (Memory.head_le_of_read_eq hv' hrest fun a => (hread a).symm)
        (Memory.head_le_of_read_eq hv hrest' hread)
      obtain rfl : v = v' := by
        rw [← Memory.read_head k v rest, hread k, Memory.read_head]
      obtain rfl : rest = rest' := by
        refine ih hrest hrest' fun a => ?_
        by_cases ha : a = k
        · rw [ha, Memory.read_of_lt _ _ _ hrest (by omega), Memory.read_of_lt _ _ _ hrest' (by omega)]
        · rw [← Memory.read_tail v rest ha, hread a, Memory.read_tail v rest' ha]
      rfl

/-- Settles O11: by induction on the list, since the least listed address and its byte can be read off. -/
theorem canonicalMemoriesReadingAlikeAreEqual : Obligations.CanonicalMemoriesReadingAlikeAreEqual :=
  fun _ _ hm hm' hread => Memory.eq_of_read_eq hm hm' hread

/-! ### Loads and stores with valid register bytes -/

section
variable {s : State} {o : Out} {a n : Nat}

theorem memAccess_inside (h : a + n ≤ s.cfg.memSize) : (if s.inMem a n then o else raise (.memRange a) s) = o :=
  if_pos (decide_eq_true h)

/-- An access outside memory faults and leaves the machine as it was (60_exceptions.md R274). -/
theorem memAccess_outside (h : s.cfg.memSize < a + n) :
    (if s.inMem a n then o else raise (.memRange a) s) = .fault (.memRange a (stoppedBy s .memRange)) :=
  if_neg (by rw [State.inMem, decide_eq_true_iff]; omega)

end

section
variable (s : State) {x y z : RegNum} {rx ry rz : Reg} (hx : regOf x = some rx) (hy : regOf y = some ry)
  (hz : regOf z = some rz)
include hx hy hz

theorem exec_lb_of_regOf : exec (.lb x y z) s =
    if s.inMem (effAddr s ry rz) 1 then
      writeResult (afterRead (afterReads s ry rz) rx) rx
        (mergeLowByte (readReg (afterReads s ry rz) rx) (s.mem.read (effAddr s ry rz)))
    else raise (.memRange (effAddr s ry rz)) s :=
  withRegs3_some s x y z _ rx ry rz hx hy hz

theorem exec_lw_of_regOf : exec (.lw x y z) s =
    if s.inMem (effAddr s ry rz) 4 then writeResult (afterReads s ry rz) rx (s.mem.readWord (effAddr s ry rz))
    else raise (.memRange (effAddr s ry rz)) s :=
  withRegs3_some s x y z _ rx ry rz hx hy hz

theorem exec_sb_of_regOf : exec (.sb x y z) s =
    if s.inMem (effAddr s ry rz) 1 then
      .next { afterRead (afterReads s ry rz) rx with
        mem := s.mem.write (effAddr s ry rz) (byte4 (readReg (afterReads s ry rz) rx)) }
    else raise (.memRange (effAddr s ry rz)) s :=
  withRegs3_some s x y z _ rx ry rz hx hy hz

theorem exec_sw_of_regOf : exec (.sw x y z) s =
    if s.inMem (effAddr s ry rz) 4 then
      .next { afterRead (afterReads s ry rz) rx with
        mem := s.mem.writeWord (effAddr s ry rz) (readReg (afterReads s ry rz) rx) }
    else raise (.memRange (effAddr s ry rz)) s :=
  withRegs3_some s x y z _ rx ry rz hx hy hz

end

/-- Settles O20: the address check decides between the fault and the register write. -/
theorem loadResults : Obligations.LoadResults := by
  intro s x y z rx ry rz hx hy hz
  rw [exec_lb_of_regOf s hx hy hz, exec_lw_of_regOf s hx hy hz]
  refine ⟨fun h => ?lbInside, memAccess_outside, fun h => ?lwInside, memAccess_outside⟩
  case lbInside =>
    rw [memAccess_inside (a := effAddr s ry rz) h, mergeLowByte_eq_joinBytes]
    exact writeResult_writeOutcome _ _ _
  case lwInside =>
    rw [memAccess_inside (a := effAddr s ry rz) h]
    exact writeResult_writeOutcome _ _ _

/-- What a stored word leaves in a canonical memory, byte by byte. -/
theorem storedWord_bytes {m : Memory} (hm : m.wf = true) (a : Nat) (v : Word) :
    (m.writeWord a v).read a = byte1 v ∧ (m.writeWord a v).read (a + 1) = byte2 v ∧
      (m.writeWord a v).read (a + 2) = byte3 v ∧ (m.writeWord a v).read (a + 3) = byte4 v ∧
      ∀ a', a' < a ∨ a + 4 ≤ a' → (m.writeWord a v).read a' = m.read a' := by
  obtain ⟨h1, h2, h3, h4⟩ := m.read_writeWord a v hm
  exact ⟨h1, h2, h3, h4, fun a' => m.read_writeWord_of_outside a a' v⟩

/-- Settles O21: the address check decides between the fault and the store, whose bytes are known. -/
theorem storeResults : Obligations.StoreResults := by
  intro s x y z rx ry rz hm hx hy hz
  rw [exec_sb_of_regOf s hx hy hz, exec_sw_of_regOf s hx hy hz]
  refine ⟨fun h => ?sbInside, memAccess_outside, fun h => ?swInside, memAccess_outside⟩
  case sbInside =>
    exact ⟨_, memAccess_inside h, Memory.read_write_self _ _ _ hm, fun a' => Memory.read_write_of_ne _ _ a' _⟩
  case swInside => exact ⟨_, memAccess_inside h, storedWord_bytes hm _ _⟩

/-- Settles O12: the store and the next fetch go to the same address of the same memory. -/
theorem fetchSeesEarlierStore : Obligations.FetchSeesEarlierStore := by
  intro s t x y z rx ry rz hm hx hy hz ha h
  rw [exec_sw_of_regOf s hx hy hz] at h
  split at h
  · cases h
    have hpc : (afterRead (afterReads s ry rz) rx).pc = s.pc := by rw [afterRead_pc, afterReads_pc]
    rw [fetchWord, hpc, ← ha]
    exact Memory.readWord_writeWord _ _ _ hm
  · cases h

/-! ### The stack (20_memory.md R74, R75) -/

theorem pushSp_eq_ofNat {s : State} (h4 : 4 ≤ s.sp.toNat) : pushSp s = BitVec.ofNat 32 (s.sp.toNat - 4) := by
  rw [pushSp, ← BitVec.ofInt_natCast, Nat.cast_sub h4]
  rfl

theorem toNat_pushSp {s : State} (h4 : 4 ≤ s.sp.toNat) : (pushSp s).toNat = s.sp.toNat - 4 := by
  rw [pushSp_eq_ofNat h4, BitVec.toNat_ofNat, Nat.mod_eq_of_lt (by omega)]

section
variable (s : State) {x : RegNum} {rx : Reg} (hx : regOf x = some rx)
include hx

/-- PUSH below 4 goes on with SPRange signalled (41_load_store.md R146). -/
theorem exec_push_refused (h : s.sp.toNat < 4) : exec (.push x) s = .next (s.signal .spRange) :=
  (withReg_some s x _ rx hx).trans (if_pos (.inl h))

/-- PUSH with SP from 4 to `MAXADDR` reads X after the decrement and stores it at the new SP. -/
theorem exec_push_stores (h4 : 4 ≤ s.sp.toNat) (hmax : s.sp.toNat ≤ s.cfg.maxAddr) :
    let s1 : State := { s with sp := BitVec.ofNat 32 (s.sp.toNat - 4) }
    exec (.push x) s =
      .next { afterRead s1 rx with mem := s.mem.writeWord (s.sp.toNat - 4) (readReg s1 rx) } := by
  have hnat := toNat_pushSp h4
  have hgoes : ¬(s.sp.toNat < 4 ∨ spValid s (pushSp s) = false) := by
    rw [← Bool.not_eq_true, spValid_iff, hnat]; omega
  have hin : (pushSp s).toNat + 4 ≤ s.cfg.memSize := by
    rw [Config.maxAddr] at hmax; omega
  refine (withReg_some s x _ rx hx).trans ((if_neg hgoes).trans ((memAccess_inside hin).trans ?_))
  rw [hnat, pushSp_eq_ofNat h4]

end

/-- Settles O22: the stored word's bytes are known, and below 4 the decrement is refused first. -/
theorem pushResult : Obligations.PushResult := by
  intro s x rx hm hx
  exact ⟨fun h4 hmax => ⟨_, exec_push_stores s hx h4 hmax, storedWord_bytes hm _ _⟩, exec_push_refused s hx⟩

section
variable {s : State}

theorem maxAddr_add_one (h : s.cfg.legal = true) : s.cfg.maxAddr + 1 = s.cfg.memSize := by
  have hmem := legal_iff.1 h
  rw [Config.maxAddr]; omega

theorem spValid_eq_false_iff {v : Word} : spValid s v = false ↔ s.cfg.maxAddr < v.toNat := by
  rw [spValid, decide_eq_false_iff_not, not_le]

/-- Under a legal memory size the increment of a valid SP does not wrap around. -/
theorem toNat_popSp (h : s.cfg.legal = true) {v : Word} (hv : v.toNat ≤ s.cfg.maxAddr) :
    (popSp v).toNat = v.toNat + 4 := by
  have hmem := legal_iff.1 h
  rw [Config.maxAddr] at hv
  rw [popSp, BitVec.toNat_ofNat, Nat.mod_eq_of_lt (by omega)]

/-- POP SP takes the loaded word plus 4 where SP may hold it (41_load_store.md R147). -/
theorem popWrites_sp_set (h : s.cfg.legal = true) {v : Word} (hv : v.toNat + 4 ≤ s.cfg.maxAddr) :
    popWrites s .sp v = .next { s with sp := popSp v } := by
  have hfirst : ¬spValid s v = false := by rw [spValid_eq_false_iff]; omega
  have hsecond : ¬spValid s (popSp v) = false := by rw [spValid_eq_false_iff, toNat_popSp h (by omega)]; omega
  rw [popWrites, if_pos rfl, if_neg hfirst, if_neg hsecond]

/-- POP SP signals SPRange and does nothing else where one of its two writes is out of range (log entry 8). -/
theorem popWrites_sp_refused (h : s.cfg.legal = true) {v : Word} (hv : s.cfg.maxAddr < v.toNat + 4) :
    popWrites s .sp v = .next (s.signal .spRange) := by
  rw [popWrites, if_pos rfl]
  split
  next => rfl
  next hfirst =>
    have hle : v.toNat ≤ s.cfg.maxAddr := not_lt.1 (mt spValid_eq_false_iff.2 hfirst)
    have hsecond : spValid s (popSp v) = false := by rw [spValid_eq_false_iff, toNat_popSp h hle]; exact hv
    rw [if_pos hsecond]; rfl

end

section
variable (s : State) {x : RegNum} {rx : Reg} (hx : regOf x = some rx)
include hx

theorem exec_pop_of_regOf : exec (.pop x) s =
    if s.inMem s.sp.toNat 4 then
      if s.cfg.maxAddr < s.sp.toNat + 4 then raise (.spRange (popSp s.sp)) s
      else popWrites s rx (s.mem.readWord s.sp.toNat)
    else raise (.memRange s.sp.toNat) s :=
  withReg_some s x _ rx hx

/-- POP whose increment of SP is out of range goes on with SPRange signalled (log entry 18). -/
theorem exec_pop_refused (h : s.cfg.legal = true) (ha : s.sp.toNat + 4 = s.cfg.memSize) :
    exec (.pop x) s = .next (s.signal .spRange) := by
  have hmax := maxAddr_add_one h
  rw [exec_pop_of_regOf s hx, memAccess_inside (by omega), if_pos (by omega)]
  rfl

/-- POP within memory makes its two writes. -/
theorem exec_pop_writes (h : s.cfg.legal = true) (ha : s.sp.toNat + 4 < s.cfg.memSize) :
    exec (.pop x) s = popWrites s rx (s.mem.readWord s.sp.toNat) := by
  have hmax := maxAddr_add_one h
  rw [exec_pop_of_regOf s hx, memAccess_inside (by omega), if_neg (by omega)]

end

/-- Settles O23: the cases are those of POP's two checks and, for X = SP, of its two writes. -/
theorem popResult : Obligations.PopResult := by
  intro s x rx hlegal hx
  refine ⟨fun ha => ?outside, exec_pop_refused s hx hlegal, fun ha hrx => ?other, fun ha hrx hv => ?sp,
    fun ha hrx hv => ?spRefused⟩
  case outside => rw [exec_pop_of_regOf s hx, memAccess_outside ha]
  case other =>
    rw [exec_pop_writes s hx hlegal ha, popWrites, if_neg hrx]
    exact writeReg_writeOutcome _ _ _ _ rfl
  case sp =>
    rw [exec_pop_writes s hx hlegal ha, hrx]
    exact popWrites_sp_set hlegal hv
  case spRefused =>
    rw [exec_pop_writes s hx hlegal ha, hrx]
    exact popWrites_sp_refused hlegal hv

/-- POP to a general register inside memory goes on with the word at SP in it. -/
theorem exec_pop_gpr (s : State) {y : RegNum} {k : Fin 32} (h : s.cfg.legal = true) (hy : regOf y = some (.gpr k))
    (ha : s.sp.toNat + 4 < s.cfg.memSize) :
    exec (.pop y) s = .next { s with
      sp := BitVec.ofNat 32 (s.sp.toNat + 4)
      gpr := s.gpr.set k (s.mem.readWord s.sp.toNat) } := by
  obtain ⟨-, -, hwrites, -⟩ := popResult s y _ h hy
  exact writeOutcome_gpr (hwrites ha nofun)

/-- Settles O24: POP reads the word PUSH stored, at the SP PUSH left. -/
theorem popUndoesPush : Obligations.PopUndoesPush := by
  intro s x y j k hs h4 hx hy
  obtain ⟨hlegal, hm, -, hv⟩ := inv_iff.1 hs
  have hmax := spValid_iff.1 hv
  have hsize := maxAddr_add_one hlegal
  have hnat : (BitVec.ofNat 32 (s.sp.toNat - 4)).toNat = s.sp.toNat - 4 := by
    rw [BitVec.toNat_ofNat, Nat.mod_eq_of_lt (by omega)]
  refine ⟨_, _, exec_push_stores s hx h4 hmax, exec_pop_gpr _ hlegal hy ?_, ?_⟩
  · show (BitVec.ofNat 32 (s.sp.toNat - 4)).toNat + 4 < s.cfg.memSize
    omega
  · dsimp only [afterRead, readReg]
    rw [hnat, Nat.sub_add_cancel h4, BitVec.ofNat_toNat, BitVec.setWidth_eq, Memory.readWord_writeWord _ _ _ hm]

end Sys2Proof.Machine

/-! PROOFS. Registers by number, boot, the machine that stopped, and INT (10_state.md R22, R30, R50, R52,
60_exceptions.md R272, R274, 47_system_io.md R255). -/

namespace Sys2Proof.Machine

open Sys2Proof.Claim

/-! ### Registers by number and the stopped machine -/

/-- R(k+1) has the number k + 1 (10_state.md R22). -/
theorem regOf_gpr (k : Fin 32) : regOf (BitVec.ofNat 8 (k.val + 1)) = some (.gpr k) := by
  have hnat : (BitVec.ofNat 8 (k.val + 1)).toNat = k.val + 1 := by
    rw [BitVec.toNat_ofNat, Nat.mod_eq_of_lt (by omega)]
  exact (regOf_eq_some _ _).2 hnat

/-- Settles O13: each number is computed, R1 to R32 through their register's number. -/
theorem registerReadByNumber : Obligations.RegisterReadByNumber :=
  fun s => ⟨⟨regOf_zero, rfl⟩, fun k => ⟨regOf_gpr k, rfl⟩, ⟨regOf_pc, rfl⟩, ⟨regOf_sp, rfl⟩, ⟨rfl, rfl⟩, ⟨rfl, rfl⟩,
    ⟨rfl, rfl⟩, ⟨rfl, rfl⟩, ⟨rfl, rfl⟩, ⟨rfl, rfl⟩, ⟨rfl, rfl⟩, fun n go => withReg_of_le s n go⟩

/-- Settles O7: the fetch is the first thing a step does. -/
theorem fetchOutsideMemoryFaults : Obligations.FetchOutsideMemoryFaults := step_of_fetch_outside

/-- A faulted machine has no successor (log entry 10). -/
theorem step_of_faulted {s : State} (h : s.run = .faulted) : step s = .fault (.alreadyFaulted s) := by
  rw [step, h]

/-- Settles O8: a machine that is off is a fixed point of every run. -/
theorem stoppedMachineStaysStopped : Obligations.StoppedMachineStaysStopped :=
  fun _ => ⟨run_of_off, step_of_faulted⟩

/-! ### Boot (10_state.md R52) -/

section
variable (m : Memory) (bs : List Byte)

/-- Loading a program leaves every byte outside it. -/
theorem Memory.read_load_of_outside (a j : Nat) (h : j < a ∨ a + bs.length ≤ j) :
    (m.load a bs).read j = m.read j := by
  induction bs generalizing m a with
  | nil => rfl
  | cons b rest ih =>
    rw [List.length_cons] at h
    rw [Memory.load, ih _ _ (by omega), Memory.read_write_of_ne _ _ _ _ (by omega)]

/-- A loaded program reads back byte by byte. -/
theorem Memory.read_load (a j : Nat) (hm : m.wf = true) (h : j < bs.length) :
    (m.load a bs).read (a + j) = bs[j] := by
  induction bs generalizing m a j with
  | nil => exact absurd h (Nat.not_lt_zero j)
  | cons b rest ih =>
    rw [Memory.load]
    cases j with
    | zero =>
      have hfirst := Memory.read_load_of_outside (m.write a b) rest (a + 1) a (.inl (by omega))
      exact hfirst.trans (Memory.read_write_self m a b hm)
    | succ j =>
      have hj := ih (m.write a b) (a + 1) j (Memory.wf_write _ _ _ hm) (Nat.lt_of_succ_lt_succ h)
      rw [Nat.add_right_comm] at hj
      exact hj

end

/-- The booted machine has SP at `MAXADDR`, which a legal memory size lets fit a word. -/
theorem toNat_boot_sp {c : Config} (p : PowerOn) (h : c.legal = true) : (State.boot c p).sp.toNat = c.maxAddr := by
  have hmem := legal_iff.1 h
  have hfits : c.maxAddr < 2 ^ 32 := by rw [Config.maxAddr]; omega
  exact Nat.mod_eq_of_lt hfits

/-- Settles O47: the image is placed from address 0, and nothing else happens to what boot was given. -/
theorem bootState : Obligations.BootState := by
  refine ⟨fun c p image hlegal hm => ?_, rfl⟩
  have hgpr (k : Fin 32) : (State.bootImage c p image).gpr.get k = 0 := by
    rw [Vector.get_eq_getElem]
    exact Vector.getElem_replicate _
  refine ⟨hgpr, rfl, rfl, toNat_boot_sp _ hlegal, rfl, rfl, rfl, rfl, rfl, rfl, rfl, rfl, rfl, rfl, fun j hj => ?_,
    fun a ha => ?_⟩
  · have hread := p.mem.read_load image 0 j hm hj
    rw [Nat.zero_add] at hread
    exact hread
  · exact p.mem.read_load_of_outside image 0 a (.inr (by omega))

/-- Settles O46: loading an image that fits keeps memory canonical and in bounds; reset boots with no image. -/
theorem bootMeetsMachineInvariant : Obligations.BootMeetsMachineInvariant := by
  have boot (c : Config) (p : PowerOn) (image : List Byte) (hlegal : c.legal = true) (hm : p.mem.wf = true)
      (hbelow : p.mem.below c.memSize = true) (hfits : image.length ≤ c.memSize) :
      (State.bootImage c p image).inv = true :=
    inv_iff.2 ⟨hlegal, Memory.wf_load _ _ _ hm, Memory.below_load _ _ _ _ hbelow (by rwa [Nat.zero_add]),
      spValid_iff.2 (toNat_boot_sp _ hlegal).le⟩
  exact ⟨boot, boot Config.standard PowerOn.zeros [] rfl rfl rfl (Nat.zero_le _)⟩

/-! ### INT (47_system_io.md R255) -/

section
variable (n : Imm24) {s : State}

theorem exec_int_identity (h : s.cfg.intHandler = .identity) : exec (.int n) s = .next s := by
  rw [exec, execInt, h]

theorem exec_int_system (h : s.cfg.intHandler = .system) :
    exec (.int n) s = .next (s.served (Config.osAction n s.hostCall)) := by
  rw [exec, execInt, h]

theorem exec_int_absent (h : s.cfg.intHandler = .absent) : exec (.int n) s = .refused .intNoHandler := by
  rw [exec, execInt, h]
  rfl

end

/-- Settles O40: under a system, the answer is taken within the bounds that keep the invariant. -/
theorem intResult : Obligations.IntResult := by
  intro s n
  refine ⟨exec_int_identity n, fun h => ?system, exec_int_absent n⟩
  case system =>
    have hint := exec_int_system n h
    exact ⟨_, hint, rfl, rfl, rfl, execInt_run n hint, served_inv _⟩

/-- What the host is shown after it served INT depends on what it was shown before, and on its answer. -/
theorem hostCall_served_congr {s s' : State} (a : HostAnswer) (h : s.hostCall = s'.hostCall) :
    (s.served a).hostCall = (s'.served a).hostCall := by
  have hpc : s.pc = s'.pc := congrArg HostCall.pc h
  have hsp : s.sp = s'.sp := congrArg HostCall.sp h
  have hir : s.ir = s'.ir := congrArg HostCall.ir h
  have hsize : s.cfg.memSize = s'.cfg.memSize := congrArg HostCall.memSize h
  have hmem : s.mem = s'.mem := congrArg HostCall.mem h
  have hvalid : spValid s a.sp = spValid s' a.sp := by
    rw [spValid, spValid, Config.maxAddr, Config.maxAddr, hsize]
  simp only [State.hostCall, State.served, hpc, hsp, hir, hsize, hmem, hvalid]

/-- Settles O55: the operating system is asked the same and answers the same, and its answer fixes the rest. -/
theorem intHandlerSeesRegistersAndMemoryOnly : Obligations.IntHandlerSeesRegistersAndMemoryOnly := by
  intro s s' n hs hs' hcall hrun
  refine ⟨_, _, exec_int_system n hs, exec_int_system n hs', ?_, ?_⟩
  · rw [hcall]
    exact hostCall_served_congr _ hcall
  · rw [hcall, served_run, served_run, hrun]

end Sys2Proof.Machine

/-! PROOFS. Multiplication, division and modulo (42_arithmetic.md R166 to R171, R176, R177, R179): what the two words
in HI and LO are as integers. -/

namespace Sys2Proof.Machine

open Sys2Proof.Claim

/-! ### Words as integers -/

/-- A number that fits a signed word is what the word holds. -/
theorem toInt_ofInt_of_bounds {p : Int} (hlow : -2147483648 ≤ p) (hhigh : p < 2147483648) :
    (BitVec.ofInt 32 p).toInt = p := by
  rw [BitVec.toInt_ofInt]
  exact Int.bmod_eq_of_le_mul_two (by omega) (by omega)

theorem toNat_ofInt_cast (p : Int) : ((BitVec.ofInt 32 p).toNat : Int) = p % 4294967296 := by
  rw [BitVec.toNat_ofInt, Int.toNat_of_nonneg (Int.emod_nonneg _ (by decide))]
  rfl

theorem toInt_bounds (a : Word) : -2147483648 ≤ a.toInt ∧ a.toInt < 2147483648 :=
  ⟨BitVec.le_toInt a, BitVec.toInt_lt⟩

/-! ### Products (42_arithmetic.md R179) -/

/-- HI joined with LO, read as a signed number, is the product if it fits 64 bits. -/
theorem splitProduct_toInt {p : Int} (hlow : -9223372036854775808 ≤ p) (hhigh : p < 9223372036854775808) :
    ((splitProduct p).1 ++ (splitProduct p).2).toInt = p := by
  rw [BitVec.toInt_append, if_neg (by decide), splitProduct, toNat_ofInt_cast,
    toInt_ofInt_of_bounds (by omega) (by omega)]
  exact Int.mul_ediv_add_emod p 4294967296

/-- HI joined with LO, read as an unsigned number, is the product if it fits 64 bits. -/
theorem splitProduct_toNat {p : Nat} (hp : p < 18446744073709551616) :
    ((splitProduct p).1 ++ (splitProduct p).2).toNat = p := by
  have hhi : ((BitVec.ofInt 32 ((p : Int) / 4294967296)).toNat : Int) = (p : Int) / 4294967296 := by
    rw [toNat_ofInt_cast, Int.emod_eq_of_lt (by omega) (by omega)]
  have hlo := toNat_ofInt_cast p
  rw [splitProduct, BitVec.toNat_append, ← Nat.shiftLeft_add_eq_or_of_lt (BitVec.isLt _), Nat.shiftLeft_eq]
  dsimp only
  omega

theorem mulSigned_toInt (a b : Word) :
    ((mulSigned a b).1 ++ (mulSigned a b).2).toInt = a.toInt * b.toInt := by
  obtain ⟨ha, ha'⟩ := toInt_bounds a
  obtain ⟨hb, hb'⟩ := toInt_bounds b
  exact splitProduct_toInt (by nlinarith) (by nlinarith)

theorem mulUnsigned_toNat (a b : Word) :
    ((mulUnsigned a b).1 ++ (mulUnsigned a b).2).toNat = a.toNat * b.toNat := by
  have hlt : a.toNat * b.toNat < 2 ^ 32 * 2 ^ 32 := Nat.mul_lt_mul'' a.isLt b.isLt
  rw [mulUnsigned, ← Nat.cast_mul]
  exact splitProduct_toNat hlt

/-! ### Quotients (42_arithmetic.md R179) -/

theorem toInt_ne_zero {d : Word} (h : d ≠ 0) : d.toInt ≠ 0 := fun e => h (BitVec.eq_of_toInt_eq e)

theorem toNat_ne_zero {d : Word} (h : d ≠ 0) : d.toNat ≠ 0 := fun e => h (BitVec.eq_of_toNat_eq e)

/-- The quotient rounded toward zero fits a signed word, but for -2^31 by -1. -/
theorem tdiv_bounds {n d : Int} (hlow : -2147483648 ≤ n) (hhigh : n < 2147483648)
    (h : ¬(n = -2147483648 ∧ d = -1)) : -2147483648 ≤ n.tdiv d ∧ n.tdiv d < 2147483648 := by
  have habs : (n.tdiv d).natAbs = n.natAbs / d.natAbs := Int.natAbs_tdiv n d
  rcases Nat.lt_or_ge d.natAbs 2 with hsmall | hlarge
  · obtain rfl | rfl | rfl : d = 0 ∨ d = 1 ∨ d = -1 := by omega
    · rw [Int.tdiv_zero]; decide
    · rw [Int.tdiv_one]; exact ⟨hlow, hhigh⟩
    · rw [Int.tdiv_neg, Int.tdiv_one]; omega
  · have hhalf : n.natAbs / d.natAbs ≤ n.natAbs / 2 := Nat.div_le_div_left hlarge (by decide)
    omega

theorem abs_tmod_lt (n : Int) {d : Int} (hd : d ≠ 0) : |n.tmod d| < |d| := by
  rw [Int.abs_eq_natAbs, Int.abs_eq_natAbs, Int.natAbs_tmod]
  exact_mod_cast Nat.mod_lt _ (Int.natAbs_pos.2 hd)

/-- The remainder has the sign of the dividend. -/
theorem tmod_mul_nonneg (n d : Int) : 0 ≤ n.tmod d * n := by
  rcases le_total 0 n with hn | hn
  · exact mul_nonneg (Int.tmod_nonneg d hn) hn
  · have hneg : 0 ≤ (-n).tmod d := Int.tmod_nonneg d (by omega)
    rw [Int.neg_tmod] at hneg
    exact mul_nonneg_of_nonpos_of_nonpos (by omega) hn

theorem divSigned_signedQuotient {n d : Word} (hd : d ≠ 0) :
    ∃ v, divSigned n d = some v ∧ SignedQuotient n d v.1 v.2 := by
  obtain ⟨hn, hn'⟩ := toInt_bounds n
  obtain ⟨hdlow, hdhigh⟩ := toInt_bounds d
  have hd' : d.toInt ≠ 0 := toInt_ne_zero hd
  refine ⟨_, if_neg hd', fun hfits => ?_, ?_⟩
  · have hrem : n.toInt - n.toInt.tdiv d.toInt * d.toInt = n.toInt.tmod d.toInt := by
      rw [Int.tmod_def, mul_comm]
    have hlt : |n.toInt.tmod d.toInt| < |d.toInt| := abs_tmod_lt n.toInt hd'
    have hfits' : ¬(n.toInt = -2147483648 ∧ d.toInt = -1) := fun ⟨e1, e2⟩ =>
      hfits ⟨BitVec.eq_of_toInt_eq e1, BitVec.eq_of_toInt_eq e2⟩
    obtain ⟨hqlow, hqhigh⟩ := tdiv_bounds hn hn' hfits'
    have hq := toInt_ofInt_of_bounds hqlow hqhigh
    have hr : (BitVec.ofInt 32 (n.toInt.tmod d.toInt)).toInt = n.toInt.tmod d.toInt := by
      have habs := abs_lt.1 hlt
      have hdabs : |d.toInt| ≤ 2147483648 := abs_le.2 ⟨by omega, by omega⟩
      exact toInt_ofInt_of_bounds (by omega) (by omega)
    dsimp only
    rw [hrem, hq, hr]
    refine ⟨?_, hlt, tmod_mul_nonneg _ _⟩
    rw [← hrem]; ring
  · rintro ⟨rfl, rfl⟩
    exact ⟨rfl, rfl⟩

theorem divUnsigned_unsignedQuotient {n d : Word} (hd : d ≠ 0) :
    ∃ v, divUnsigned n d = some v ∧ UnsignedQuotient n d v.1 v.2 := by
  have hd' : d.toNat ≠ 0 := toNat_ne_zero hd
  have hq : (BitVec.ofNat 32 (n.toNat / d.toNat)).toNat = n.toNat / d.toNat :=
    Nat.mod_eq_of_lt ((Nat.div_le_self _ _).trans_lt n.isLt)
  have hlt : n.toNat % d.toNat < d.toNat := Nat.mod_lt _ (Nat.pos_of_ne_zero hd')
  have hr : (BitVec.ofNat 32 (n.toNat % d.toNat)).toNat = n.toNat % d.toNat :=
    Nat.mod_eq_of_lt (hlt.trans d.isLt)
  refine ⟨_, if_neg hd', ?_, ?_⟩
  · rw [hq, hr, Nat.div_add_mod']
  · rw [hr]
    exact hlt

theorem simm16_ne_zero {n : Imm16} (h : n ≠ 0) : simm16 n ≠ 0 := fun e =>
  h (BitVec.eq_of_toInt_eq (by rw [← toInt_simm16, e]; rfl))

theorem uimm8_ne_zero {n : Imm8} (h : n ≠ 0) : uimm8 n ≠ 0 := fun e =>
  h (BitVec.eq_of_toNat_eq (by rw [← toNat_uimm8, e]; rfl))

/-! ### The instructions -/

section
variable (s : State) {x y : RegNum} {rx ry : Reg} {p : Word → Word → Prop}

theorem formHiLo_writesHiLo (f : Word → Word → Option (Word × Word)) (hx : regOf x = some rx)
    (hy : regOf y = some ry)
    (hf : ∃ v, f (readReg s rx) (readSecond s rx ry) = some v ∧ p v.1 v.2) :
    WritesHiLo (formHiLo f x y s) (afterReads s rx ry) p := by
  obtain ⟨v, hv, hp⟩ := hf
  refine ⟨v.1, v.2, ?_, hp⟩
  rw [formHiLo, withRegs2_some s x y _ rx ry hx hy, hv]
  rfl

theorem formHiLoImm_writesHiLo (f : Word → Option (Word × Word)) (hx : regOf x = some rx)
    (hf : ∃ v, f (readReg s rx) = some v ∧ p v.1 v.2) :
    WritesHiLo (formHiLoImm f x s) (afterRead s rx) p := by
  obtain ⟨v, hv, hp⟩ := hf
  refine ⟨v.1, v.2, ?_, hp⟩
  rw [formHiLoImm, withReg_some s x _ rx hx, hv]
  rfl

/-- MOD and MODI with a nonzero divisor write X after HI and LO (42_arithmetic.md R176, R177, log entry 9). -/
theorem writeModulo_writeOutcome (after : State) (rx : Reg) {n d : Word} (hd : d ≠ 0) :
    ∃ h l, UnsignedQuotient n d h l ∧
      WriteOutcome (writeModulo s after rx n d) after { after with hi := h, lo := l } rx l := by
  obtain ⟨v, hv, hq⟩ := divUnsigned_unsignedQuotient (n := n) hd
  refine ⟨v.1, v.2, hq, ?_⟩
  rw [writeModulo, hv]
  exact writeReg_writeOutcome after (setHiLo after v) rx v.2 rfl

end

/-- Settles O27: HI and LO split a product that fits 64 bits. -/
theorem multiplyResults : Obligations.MultiplyResults := by
  intro s x y n rx ry hx hy
  refine ⟨formHiLo_writesHiLo s (fun a b => some (mulSigned a b)) hx hy ⟨_, rfl, mulSigned_toInt _ _⟩,
    formHiLo_writesHiLo s (fun a b => some (mulUnsigned a b)) hx hy ⟨_, rfl, mulUnsigned_toNat _ _⟩,
    formHiLoImm_writesHiLo s (fun a => some (mulSigned a (simm16 n))) hx ⟨_, rfl, ?_⟩⟩
  rw [← toInt_simm16]
  exact mulSigned_toInt _ _

/-- Settles O28: a nonzero divisor makes both divisions answer, with the quotient the spec fixes. -/
theorem divisionResults : Obligations.DivisionResults := by
  intro s x y n rx ry hx hy
  exact ⟨fun h => formHiLo_writesHiLo s divSigned hx hy (divSigned_signedQuotient h),
    fun h => formHiLo_writesHiLo s divUnsigned hx hy (divUnsigned_unsignedQuotient h),
    fun h => formHiLoImm_writesHiLo s (divSigned · (simm16 n)) hx (divSigned_signedQuotient (simm16_ne_zero h))⟩

/-- Settles O29: MOD and MODI divide as DIVU does and write X last. -/
theorem moduloResults : Obligations.ModuloResults := by
  intro s x y z n rx ry rz hx hy hz
  rw [← uimm8_eq_ofNat, exec, execMod, exec, execModi, withRegs3_some s x y z _ rx ry rz hx hy hz,
    withRegs2_some s x y _ rx ry hx hy]
  exact ⟨fun h => writeModulo_writeOutcome s _ rx h, fun h => writeModulo_writeOutcome s _ rx (uimm8_ne_zero h)⟩

end Sys2Proof.Machine

/-! PROOFS. What holds of every instruction because of the form of its meaning. `HasForm` lists the forms once, with
the registers each one reads; a statement about all instructions is then proved form by form. -/

namespace Sys2Proof.Machine

open Sys2Proof.Claim

/-! ### The forms of the meanings -/

/-- The meaning `e` of the instruction `i` has one of the model's forms and reads the registers `i.sources`. -/
inductive HasForm (i : Instr) : (State → Out) → Prop where
  | nop : i.sources = [] → HasForm i execNop
  | eop : i.sources = [] → HasForm i execEop
  | int (n : Imm24) : i.sources = [] → HasForm i (execInt n)
  | refused (q : Refusal) : HasForm i fun _ => refuse q
  | branch (c : Word → Bool) (n : Int) : i.sources = [] → HasForm i fun s => branchIf (c s.cmpr) n s
  | go (x : RegNum) : i.sources = [x] → HasForm i (execGo x)
  | compare (f : Word → Word → Word) (x y : RegNum) : i.sources = [x, y] → HasForm i fun s =>
      withRegs2 s x y fun rx ry => .next (setCmpr (afterReads s rx ry) (f (readReg s rx) (readSecond s rx ry)))
  | cmpi (x : RegNum) (n : Imm16) : i.sources = [x] → HasForm i (execCmpi x n)
  | rrr (f : Word → Word → Word) (x y z : RegNum) : i.sources = [y, z] → HasForm i (formRRR f x y z)
  | rr (f : Word → Word) (x y : RegNum) : i.sources = [y] → HasForm i (formRR f x y)
  | rn (v : Word) (x : RegNum) : i.sources = [] → HasForm i (formRN v x)
  | r (f : Word → Word) (x : RegNum) : i.sources = [x] → HasForm i (formR f x)
  | hiLo (f : Word → Word → Option (Word × Word)) (x y : RegNum) : i.sources = [x, y] → HasForm i (formHiLo f x y)
  | hiLoImm (f : Word → Option (Word × Word)) (x : RegNum) : i.sources = [x] → HasForm i (formHiLoImm f x)
  | mod (x y z : RegNum) : i.sources = [y, z] → HasForm i (execMod x y z)
  | modi (x y : RegNum) (n : Imm8) : i.sources = [y] → HasForm i (execModi x y n)
  | lb (x y z : RegNum) : i.sources = [y, z, x] → HasForm i (execLb x y z)
  | lw (x y z : RegNum) : i.sources = [y, z] → HasForm i (execLw x y z)
  | sb (x y z : RegNum) : i.sources = [y, z, x] → HasForm i (execSb x y z)
  | sw (x y z : RegNum) : i.sources = [y, z, x] → HasForm i (execSw x y z)
  | push (x : RegNum) : i = .push x → HasForm i (execPush x)
  | pop (x : RegNum) : i.sources = [] → HasForm i (execPop x)

/-- Every instruction's meaning has a form. -/
theorem exec_hasForm (i : Instr) : HasForm i (exec i) := by
  cases i with
  | nop => exact .nop rfl
  | eop => exact .eop rfl
  | int n => exact .int n rfl
  | call | ret | inp | out => exact .refused _
  | be n => exact .branch condEq (branchOffset n) rfl
  | bne n => exact .branch condNe (branchOffset n) rfl
  | bl n => exact .branch condLt (branchOffset n) rfl
  | ble n => exact .branch condLe (branchOffset n) rfl
  | bg n => exact .branch condGt (branchOffset n) rfl
  | bge n => exact .branch condGe (branchOffset n) rfl
  | jmp n => exact .branch (fun _ => true) (jumpOffset n) rfl
  | go x => exact .go x rfl
  | cmp x y => exact .compare (fun a b => cmpResult a.toInt b.toInt) x y rfl
  | cmpu x y => exact .compare (fun a b => cmpResult a.toNat b.toNat) x y rfl
  | cmpi x n => exact .cmpi x n rfl
  | mod x y z => exact .mod x y z rfl
  | modi x y n => exact .modi x y n rfl
  | lb x y z => exact .lb x y z rfl
  | lw x y z => exact .lw x y z rfl
  | sb x y z => exact .sb x y z rfl
  | sw x y z => exact .sw x y z rfl
  | push x => exact .push x rfl
  | pop x => exact .pop x rfl
  | add x y z => exact .rrr addSigned x y z rfl
  | addu x y z => exact .rrr addUnsigned x y z rfl
  | sub x y z => exact .rrr subSigned x y z rfl
  | subu x y z => exact .rrr subUnsigned x y z rfl
  | and x y z => exact .rrr (· &&& ·) x y z rfl
  | or x y z => exact .rrr (· ||| ·) x y z rfl
  | xor x y z => exact .rrr (· ^^^ ·) x y z rfl
  | nand x y z => exact .rrr nandWord x y z rfl
  | nor x y z => exact .rrr norWord x y z rfl
  | shl x y z => exact .rrr (fun a b => shiftLeft a b.toNat) x y z rfl
  | shr x y z => exact .rrr (fun a b => shiftRight a b.toNat) x y z rfl
  | shra x y z => exact .rrr (fun a b => shiftRightArith a b.toNat) x y z rfl
  | rotl x y z => exact .rrr (fun a b => rotLeft a b.toNat) x y z rfl
  | rotr x y z => exact .rrr (fun a b => rotRight a b.toNat) x y z rfl
  | addi x y n => exact .rr (addSigned · (simm8 n)) x y rfl
  | subi x y n => exact .rr (subSigned · (simm8 n)) x y rfl
  | andi x y n => exact .rr (· &&& uimm8 n) x y rfl
  | ori x y n => exact .rr (· ||| uimm8 n) x y rfl
  | xori x y n => exact .rr (· ^^^ uimm8 n) x y rfl
  | nandi x y n => exact .rr (nandWord · (uimm8 n)) x y rfl
  | nori x y n => exact .rr (norWord · (uimm8 n)) x y rfl
  | shli x y n => exact .rr (shiftLeft · (uimm8 n).toNat) x y rfl
  | shri x y n => exact .rr (shiftRight · (uimm8 n).toNat) x y rfl
  | shrai x y n => exact .rr (shiftRightArith · (uimm8 n).toNat) x y rfl
  | rotli x y n => exact .rr (rotLeft · (uimm8 n).toNat) x y rfl
  | rotri x y n => exact .rr (rotRight · (uimm8 n).toNat) x y rfl
  | cp x y => exact .rr id x y rfl
  | abs x y => exact .rr absSigned x y rfl
  | neg x y => exact .rr negSigned x y rfl
  | not x y => exact .rr (~~~ ·) x y rfl
  | set x n => exact .rn (simm16 n) x rfl
  | noti x n => exact .rn (~~~(uimm16 n)) x rfl
  | inc x => exact .r (addUnsigned · 1) x rfl
  | dec x => exact .r (subUnsigned · 1) x rfl
  | mul x y => exact .hiLo (fun a b => some (mulSigned a b)) x y rfl
  | mulu x y => exact .hiLo (fun a b => some (mulUnsigned a b)) x y rfl
  | div x y => exact .hiLo divSigned x y rfl
  | divu x y => exact .hiLo divUnsigned x y rfl
  | muli x n => exact .hiLoImm (fun a => some (mulSigned a (simm16 n))) x rfl
  | divi x n => exact .hiLoImm (divSigned · (simm16 n)) x rfl

end Sys2Proof.Machine

/-! PROOFS. Faults are precise (60_exceptions.md R272, R281, R282): a fault of an instruction leaves the machine the
instruction started from, but for what R272 says of every fault and for draws of STAT. -/

namespace Sys2Proof.Machine

open Sys2Proof.Claim

/-- If the outcome is a fault, then it left `s` stopped by an error of its kind, up to draws of STAT. -/
def Precise (s : State) (o : Out) : Prop :=
  ∀ f, o = .fault f → ∃ k n, kindOf f = some k ∧ f.stopped = stoppedBy (s.drawn n) k

section
variable {s : State}

/-! ### The shared operations -/

theorem precise_next (t : State) : Precise s (.next t) := by
  intro f h
  cases h

theorem precise_refuse (q : Refusal) : Precise s (refuse q) := by
  intro f h
  cases h

/-- `raise` names the kind of error in the fault it makes. -/
theorem precise_raise (e : MachineError) : Precise s (raise e s) := by
  intro f h
  cases e with
  | spRange v => cases h
  | memRange a => cases h; exact ⟨_, s.statReads, rfl, rfl⟩
  | illegalOpcode op => cases h; exact ⟨_, s.statReads, rfl, rfl⟩
  | invalidRegister n => cases h; exact ⟨_, s.statReads, rfl, rfl⟩
  | divideByZero => cases h; exact ⟨_, s.statReads, rfl, rfl⟩
  | writeProtected r =>
    simp only [raise] at h
    split at h <;> cases h
    exact ⟨_, s.statReads, rfl, rfl⟩

/-- A register write after draws of STAT. -/
theorem precise_writeReg (n : Nat) (done : State) (hc : done.cfg = s.cfg) (r : Reg) (v : Word) :
    Precise s (writeReg (s.drawn n) done r v) := by
  intro f h
  rw [writeReg_fault (s.drawn n) done r v f hc h]
  exact ⟨_, n, rfl, rfl⟩

theorem precise_writeResult_afterRead (q r : Reg) (v : Word) : Precise s (writeResult (afterRead s q) r v) := by
  obtain ⟨n, hn, -⟩ := afterRead_drawn s q
  rw [hn]
  exact precise_writeReg n (s.drawn n) rfl r v

theorem precise_writeResult_afterReads (p q r : Reg) (v : Word) :
    Precise s (writeResult (afterReads s p q) r v) := by
  obtain ⟨n, hn, -⟩ := afterReads_drawn s p q
  rw [hn]
  exact precise_writeReg n (s.drawn n) rfl r v

theorem precise_withReg {x : RegNum} {go : Reg → Out} (h : ∀ rx, Precise s (go rx)) :
    Precise s (withReg s x go) := by
  rcases withReg_cases s x go with ⟨r, _, e⟩ | ⟨_, e⟩ <;> rw [e]
  · exact h r
  · exact precise_raise (.invalidRegister x)

theorem precise_withRegs2 {x y : RegNum} {go : Reg → Reg → Out} (h : ∀ rx ry, Precise s (go rx ry)) :
    Precise s (withRegs2 s x y go) :=
  precise_withReg fun rx => precise_withReg (h rx)

theorem precise_withRegs3 {x y z : RegNum} {go : Reg → Reg → Reg → Out}
    (h : ∀ rx ry rz, Precise s (go rx ry rz)) : Precise s (withRegs3 s x y z go) :=
  precise_withReg fun rx => precise_withRegs2 (h rx)

theorem precise_memAccess {o : Out} (a n : Nat) (h : Precise s o) :
    Precise s (if s.inMem a n then o else raise (.memRange a) s) := by
  split
  · exact h
  · exact precise_raise _

theorem precise_writeModulo (n : Nat) (r : Reg) (a d : Word) : Precise s (writeModulo s (s.drawn n) r a d) := by
  unfold writeModulo
  split
  · exact precise_writeReg (s := s) n (setHiLo (s.drawn n) _) rfl r _
  · exact precise_raise _

theorem precise_popWrites (r : Reg) (v : Word) : Precise s (popWrites s r v) := by
  unfold popWrites
  split
  · split
    · exact precise_raise _
    · split
      · exact precise_raise _
      · exact precise_next _
  · exact precise_writeReg (s := s) s.statReads { s with sp := popSp s.sp } rfl r v

end

/-! ### Every instruction -/

theorem HasForm.precise {i : Instr} {e : State → Out} (h : HasForm i e) (s : State) : Precise s (e s) := by
  cases h with
  | nop | eop => exact precise_next _
  | refused q => exact precise_refuse q
  | int n =>
    unfold execInt
    split
    · exact precise_refuse _
    · exact precise_next _
    · exact precise_next _
  | branch c n =>
    dsimp only
    rw [branchIf_eq]
    exact precise_next _
  | go | cmpi => exact precise_withReg fun _ => precise_next _
  | compare => exact precise_withRegs2 fun _ _ => precise_next _
  | rrr => exact precise_withRegs3 fun _ _ _ => precise_writeResult_afterReads _ _ _ _
  | rr => exact precise_withRegs2 fun _ _ => precise_writeResult_afterRead _ _ _
  | rn => exact precise_withReg fun _ => precise_writeReg s.statReads s rfl _ _
  | r => exact precise_withReg fun _ => precise_writeResult_afterRead _ _ _
  | hiLo =>
    refine precise_withRegs2 fun rx ry => ?_
    split
    · exact precise_next _
    · exact precise_raise _
  | hiLoImm =>
    refine precise_withReg fun rx => ?_
    split
    · exact precise_next _
    · exact precise_raise _
  | mod =>
    refine precise_withRegs3 fun rx ry rz => ?_
    obtain ⟨n, hn, -⟩ := afterReads_drawn s ry rz
    rw [hn]
    exact precise_writeModulo n rx _ _
  | modi =>
    refine precise_withRegs2 fun rx ry => ?_
    obtain ⟨n, hn, -⟩ := afterRead_drawn s ry
    rw [hn]
    exact precise_writeModulo n rx _ _
  | lb =>
    refine precise_withRegs3 fun rx ry rz => precise_memAccess _ _ ?_
    obtain ⟨n, hn, -⟩ := afterReads_drawn s ry rz
    rw [hn]
    exact precise_writeResult_afterRead (s := s.drawn n) rx rx _
  | lw => exact precise_withRegs3 fun _ _ _ => precise_memAccess _ _ (precise_writeResult_afterReads _ _ _ _)
  | sb | sw => exact precise_withRegs3 fun _ _ _ => precise_memAccess _ _ (precise_next _)
  | push =>
    refine precise_withReg fun rx => ?_
    dsimp only
    split
    · exact precise_raise _
    · exact precise_memAccess _ _ (precise_next _)
  | pop =>
    refine precise_withReg fun rx => precise_memAccess _ _ ?_
    split
    · exact precise_raise _
    · exact precise_popWrites rx _

theorem exec_precise (i : Instr) (s : State) : Precise s (exec i s) := (exec_hasForm i).precise s

/-! ### The obligation -/

/-- A fetched word that does not decode, or whose instruction faults, leaves the machine after the fetch. -/
theorem step_precise {s : State} (hf : Fetches s) : Precise (afterFetch s) (step s) := by
  cases hd : decode (fetchWord s) with
  | ok i =>
    rw [step_of_fetches s i hf hd]
    exact exec_precise i _
  | error e =>
    obtain ⟨op⟩ := e
    rw [step_of_decode_error s op hf hd]
    exact precise_raise (.illegalOpcode op)

/-- Settles O44: a fetch outside memory is the one fault before IR and PC change; every later one is precise. -/
theorem faultsArePrecise : Obligations.FaultsArePrecise := by
  intro s f hon h
  refine ⟨fun hout => ?_, fun hf => step_precise hf f h⟩
  rw [step_of_fetch_outside s hon hout] at h
  exact (Host.Outcome.fault.inj h).symm

end Sys2Proof.Machine

/-! PROOFS. Draws of STAT are counted (10_state.md R28): an instruction that goes on moves the count by the number of
its sources that are STAT. -/

namespace Sys2Proof.Machine

open Sys2Proof.Claim

/-- How many draws a read of `r` makes. -/
def draws (r : Reg) : Nat := if r = .stat then 1 else 0

/-- How many of the register bytes name STAT. -/
def statCount (ns : List RegNum) : Nat := ns.countP fun n => decide (regOf n = some .stat)

theorem statReads_afterRead (s : State) (r : Reg) : (afterRead s r).statReads = s.statReads + draws r := by
  rw [afterRead_statReads, draws]
  split <;> rfl

theorem statReads_afterReads (s : State) (r q : Reg) :
    (afterReads s r q).statReads = s.statReads + (draws r + draws q) := by
  rw [afterReads, statReads_afterRead, statReads_afterRead, Nat.add_assoc]

@[simp] theorem statCount_nil : statCount [] = 0 := rfl

theorem statCount_cons {n : RegNum} {r : Reg} (h : regOf n = some r) (ns : List RegNum) :
    statCount (n :: ns) = draws r + statCount ns := by
  rw [statCount, List.countP_cons, h, draws, statCount, Nat.add_comm]
  congr 1
  simp only [Option.some.injEq, decide_eq_true_eq]

theorem statCount_one {n : RegNum} {r : Reg} (h : regOf n = some r) : statCount [n] = draws r := by
  rw [statCount_cons h, statCount_nil, Nat.add_zero]

theorem statCount_two {n m : RegNum} {r q : Reg} (h : regOf n = some r) (h' : regOf m = some q) :
    statCount [n, m] = draws r + draws q := by
  rw [statCount_cons h, statCount_one h']

theorem writeReg_statReads {base done t : State} {r : Reg} {v : Word} (hdone : done.statReads = base.statReads)
    (h : writeReg base done r v = .next t) : t.statReads = base.statReads :=
  writeReg_keeps (·.statReads) (setReg_statReads done r v) signal_statReads hdone h

theorem writeModulo_statReads {entry after t : State} {r : Reg} {n d : Word}
    (h : writeModulo entry after r n d = .next t) : t.statReads = after.statReads := by
  obtain ⟨v, -, h⟩ := writeModulo_next _ _ _ _ _ _ h
  exact writeReg_statReads (setHiLo_statReads after v) h

/-! ### Loads, stores and the stack -/

section
variable {s t : State} {x y z : RegNum}

/-- An access that goes on lies in memory. -/
theorem memAccess_next {a n : Nat} {o : Out} (h : (if s.inMem a n then o else raise (.memRange a) s) = .next t) :
    o = .next t := by
  split at h
  · exact h
  · cases h

theorem execLb_statReads (h : execLb x y z s = .next t) : t.statReads = s.statReads + statCount [y, z, x] := by
  obtain ⟨rx, ry, rz, hx, hy, hz, h⟩ := withRegs3_next _ _ _ _ _ _ h
  rw [writeReg_statReads rfl (memAccess_next h), statReads_afterRead, statReads_afterReads, statCount_cons hy,
    statCount_two hz hx]
  omega

theorem execLw_statReads (h : execLw x y z s = .next t) : t.statReads = s.statReads + statCount [y, z] := by
  obtain ⟨rx, ry, rz, hx, hy, hz, h⟩ := withRegs3_next _ _ _ _ _ _ h
  rw [writeReg_statReads rfl (memAccess_next h), statReads_afterReads, statCount_two hy hz]

theorem execSb_statReads (h : execSb x y z s = .next t) : t.statReads = s.statReads + statCount [y, z, x] := by
  obtain ⟨rx, ry, rz, hx, hy, hz, h⟩ := withRegs3_next _ _ _ _ _ _ h
  obtain rfl := Host.Outcome.next.inj (memAccess_next h)
  rw [statReads_afterRead, statReads_afterReads, statCount_cons hy, statCount_two hz hx]
  omega

theorem execSw_statReads (h : execSw x y z s = .next t) : t.statReads = s.statReads + statCount [y, z, x] := by
  obtain ⟨rx, ry, rz, hx, hy, hz, h⟩ := withRegs3_next _ _ _ _ _ _ h
  obtain rfl := Host.Outcome.next.inj (memAccess_next h)
  rw [statReads_afterRead, statReads_afterReads, statCount_cons hy, statCount_two hz hx]
  omega

/-- PUSH reads X, or is refused before it reads anything (41_load_store.md R146). -/
theorem execPush_statReads (h : execPush x s = .next t) :
    t.statReads = s.statReads + statCount [x] ∨ t = s.signal .spRange := by
  obtain ⟨rx, hx, h⟩ := withReg_next _ _ _ _ h
  dsimp only at h
  split at h
  · exact .inr (Host.Outcome.next.inj h).symm
  · obtain rfl := Host.Outcome.next.inj (memAccess_next h)
    exact .inl (by rw [statReads_afterRead, statCount_one hx])

/-- POP reads no register by number. -/
theorem execPop_statReads (h : execPop x s = .next t) : t.statReads = s.statReads := by
  obtain ⟨rx, hx, h⟩ := withReg_next _ _ _ _ h
  have h := memAccess_next h
  split at h
  · cases h; rfl
  · rcases popWrites_next _ _ _ _ h with ⟨_, rfl⟩ | ⟨_, _, rfl⟩ | ⟨_, h⟩
    · rfl
    · rfl
    · exact writeReg_statReads (setReg_statReads s .sp _) h

end

/-! ### Every instruction -/

theorem HasForm.statReads {i : Instr} {e : State → Out} (hform : HasForm i e) (hpush : ∀ x, i ≠ .push x)
    {s t : State} (h : e s = .next t) : t.statReads = s.statReads + statCount i.sources := by
  cases hform with
  | push x hi => exact absurd hi (hpush x)
  | nop hs | eop hs => rw [hs]; cases h; rfl
  | int n hs =>
    rw [hs]
    rcases execInt_next n s t h with ⟨_, rfl⟩ | ⟨_, rfl⟩ <;> rfl
  | refused q => cases h
  | branch c n hs =>
    dsimp only at h
    rw [branchIf_eq] at h
    rw [hs]
    cases h
    split <;> rfl
  | go x hs =>
    obtain ⟨rx, hx, h⟩ := withReg_next _ _ _ _ h
    cases h
    rw [hs, statCount_one hx, setPc_statReads, statReads_afterRead]
  | cmpi x n hs =>
    obtain ⟨rx, hx, h⟩ := withReg_next _ _ _ _ h
    cases h
    rw [hs, statCount_one hx, setCmpr_statReads, statReads_afterRead]
  | compare f x y hs =>
    obtain ⟨rx, ry, hx, hy, h⟩ := withRegs2_next _ _ _ _ _ h
    cases h
    rw [hs, statCount_two hx hy, setCmpr_statReads, statReads_afterReads]
  | rrr f x y z hs =>
    obtain ⟨rx, ry, rz, _, hy, hz, h⟩ := formRRR_next _ _ _ _ _ _ h
    rw [hs, statCount_two hy hz, writeReg_statReads rfl h, statReads_afterReads]
  | rr f x y hs =>
    obtain ⟨rx, ry, _, hy, h⟩ := formRR_next _ _ _ _ _ h
    rw [hs, statCount_one hy, writeReg_statReads rfl h, statReads_afterRead]
  | rn v x hs =>
    obtain ⟨rx, _, h⟩ := formRN_next _ _ _ _ h
    rw [hs, writeReg_statReads rfl h, statCount_nil, Nat.add_zero]
  | r f x hs =>
    obtain ⟨rx, hx, h⟩ := formR_next _ _ _ _ h
    rw [hs, statCount_one hx, writeReg_statReads rfl h, statReads_afterRead]
  | hiLo f x y hs =>
    obtain ⟨rx, ry, v, hx, hy, _, rfl⟩ := formHiLo_next _ _ _ _ _ h
    rw [hs, statCount_two hx hy, setHiLo_statReads, statReads_afterReads]
  | hiLoImm f x hs =>
    obtain ⟨rx, v, hx, _, rfl⟩ := formHiLoImm_next _ _ _ _ h
    rw [hs, statCount_one hx, setHiLo_statReads, statReads_afterRead]
  | mod x y z hs =>
    obtain ⟨rx, ry, rz, _, hy, hz, h⟩ := withRegs3_next _ _ _ _ _ _ h
    rw [hs, statCount_two hy hz, writeModulo_statReads h, statReads_afterReads]
  | modi x y n hs =>
    obtain ⟨rx, ry, _, hy, h⟩ := withRegs2_next _ _ _ _ _ h
    rw [hs, statCount_one hy, writeModulo_statReads h, statReads_afterRead]
  | lb x y z hs => rw [hs, execLb_statReads h]
  | lw x y z hs => rw [hs, execLw_statReads h]
  | sb x y z hs => rw [hs, execSb_statReads h]
  | sw x y z hs => rw [hs, execSw_statReads h]
  | pop x hs => rw [hs, execPop_statReads h, statCount_nil, Nat.add_zero]

/-- Settles O58: PUSH is the one instruction that can go on before it reads its source. -/
theorem everyStatReadUsesUpADraw : Obligations.EveryStatReadUsesUpADraw := by
  intro i s t h
  by_cases hpush : ∃ x, i = .push x
  · obtain ⟨x, rfl⟩ := hpush
    exact (execPush_statReads h).imp id fun e => ⟨⟨x, rfl⟩, e⟩
  · exact .inl ((exec_hasForm i).statReads (fun x e => hpush ⟨x, e⟩) h)

end Sys2Proof.Machine

/-! PROOFS. The operating mode changes nothing (10_state.md R51, 60_exceptions.md R286). Every operation commutes with
putting the machine under another mode; so does every form of meaning, hence every step and every run. -/

namespace Sys2Proof.Machine

open Sys2Proof.Claim

section
variable (s : State) (m : Mode)

/-! ### Updates and reads -/

@[simp] theorem afterFetch_withMode : afterFetch (withMode s m) = withMode (afterFetch s) m := rfl

@[simp] theorem fetchWord_withMode : fetchWord (withMode s m) = fetchWord s := rfl

@[simp] theorem inMem_withMode (a n : Nat) : (withMode s m).inMem a n = s.inMem a n := rfl

@[simp] theorem spValid_withMode (v : Word) : spValid (withMode s m) v = spValid s v := rfl

@[simp] theorem pushSp_withMode : pushSp (withMode s m) = pushSp s := rfl

@[simp] theorem readReg_withMode (r : Reg) : readReg (withMode s m) r = readReg s r := by cases r <;> rfl

@[simp] theorem afterRead_withMode (r : Reg) : afterRead (withMode s m) r = withMode (afterRead s r) m := by
  cases r <;> rfl

@[simp] theorem readSecond_withMode (r q : Reg) : readSecond (withMode s m) r q = readSecond s r q := by
  simp only [readSecond, afterRead_withMode, readReg_withMode]

@[simp] theorem afterReads_withMode (r q : Reg) : afterReads (withMode s m) r q = withMode (afterReads s r q) m := by
  simp only [afterReads, afterRead_withMode]

@[simp] theorem effAddr_withMode (r q : Reg) : effAddr (withMode s m) r q = effAddr s r q := by
  simp only [effAddr, readReg_withMode, readSecond_withMode]

@[simp] theorem setReg_withMode (r : Reg) (v : Word) : setReg (withMode s m) r v = withMode (setReg s r v) m := by
  cases r <;> rfl

@[simp] theorem isProtected_withMode (r : Reg) : isProtected (withMode s m) r = isProtected s r := by
  cases r <;> rfl

/-! ### The shared operations -/

/-- A case distinction that does not ask for the mode. -/
theorem ite_withMode {m : Mode} {c : Prop} [Decidable c] {o o' q q' : Out} (ho : o' = outcomeUnder m o)
    (hq : q' = outcomeUnder m q) : (if c then o' else q') = outcomeUnder m (if c then o else q) := by
  split
  · exact ho
  · exact hq

theorem raise_withMode (e : MachineError) : raise e (withMode s m) = outcomeUnder m (raise e s) := by
  cases e with
  | writeProtected r =>
    have hcfg : (withMode s m).cfg.wpWrite = s.cfg.wpWrite := rfl
    simp only [raise, hcfg]
    split <;> rfl
  | _ => rfl

theorem writeReg_withMode (done : State) (r : Reg) (v : Word) :
    writeReg (withMode s m) (withMode done m) r v = outcomeUnder m (writeReg s done r v) := by
  have hcfg : (withMode s m).cfg.wpWrite = s.cfg.wpWrite := rfl
  simp only [writeReg, isProtected_withMode, spValid_withMode, hcfg, raise_withMode, setReg_withMode]
  split
  · split <;> rfl
  · split <;> rfl

theorem writeResult_withMode (r : Reg) (v : Word) :
    writeResult (withMode s m) r v = outcomeUnder m (writeResult s r v) := writeReg_withMode s m s r v

theorem writeModulo_withMode (after : State) (r : Reg) (n d : Word) :
    writeModulo (withMode s m) (withMode after m) r n d = outcomeUnder m (writeModulo s after r n d) := by
  unfold writeModulo
  split
  · exact writeReg_withMode after m (setHiLo after _) r _
  · exact raise_withMode s m _

theorem popWrites_withMode (r : Reg) (v : Word) :
    popWrites (withMode s m) r v = outcomeUnder m (popWrites s r v) := by
  have hsp : ∀ u : Word, raise (.spRange u) (withMode s m) = outcomeUnder m (raise (.spRange u) s) :=
    fun u => raise_withMode s m (.spRange u)
  exact ite_withMode (ite_withMode (hsp v) (ite_withMode (hsp (popSp v)) rfl))
    (writeReg_withMode s m { s with sp := popSp s.sp } r v)

/-- An operating system is not shown the mode (47_system_io.md R255). -/
theorem execInt_withMode (n : Imm24) : execInt n (withMode s m) = outcomeUnder m (execInt n s) := by
  have hcfg : (withMode s m).cfg.intHandler = s.cfg.intHandler := rfl
  simp only [execInt, hcfg]
  split <;> rfl

section
variable {s m} {x y z : RegNum}

theorem withReg_withMode {go go' : Reg → Out} (h : ∀ r, go' r = outcomeUnder m (go r)) :
    withReg (withMode s m) x go' = outcomeUnder m (withReg s x go) := by
  rw [withReg, withReg]
  cases regOf x with
  | some r => exact h r
  | none => exact raise_withMode s m _

theorem withRegs2_withMode {go go' : Reg → Reg → Out} (h : ∀ r q, go' r q = outcomeUnder m (go r q)) :
    withRegs2 (withMode s m) x y go' = outcomeUnder m (withRegs2 s x y go) :=
  withReg_withMode fun r => withReg_withMode (h r)

theorem withRegs3_withMode {go go' : Reg → Reg → Reg → Out}
    (h : ∀ r q p, go' r q p = outcomeUnder m (go r q p)) :
    withRegs3 (withMode s m) x y z go' = outcomeUnder m (withRegs3 s x y z go) :=
  withReg_withMode fun r => withRegs2_withMode (h r)

theorem memAccess_withMode {o o' : Out} {a n : Nat} (h : o' = outcomeUnder m o) :
    (if (withMode s m).inMem a n then o' else raise (.memRange a) (withMode s m)) =
      outcomeUnder m (if s.inMem a n then o else raise (.memRange a) s) :=
  ite_withMode h (raise_withMode s m _)

end

end

/-! ### Every instruction -/

theorem HasForm.commutes_withMode {i : Instr} {e : State → Out} (h : HasForm i e) (s : State) (m : Mode) :
    e (withMode s m) = outcomeUnder m (e s) := by
  cases h with
  | nop | eop | refused => rfl
  | int n => exact execInt_withMode s m n
  | branch c n =>
    dsimp only
    exact ite_withMode rfl rfl
  | go | cmpi =>
    refine withReg_withMode fun r => ?_
    rw [afterRead_withMode, readReg_withMode]
    rfl
  | compare =>
    refine withRegs2_withMode fun r q => ?_
    rw [afterReads_withMode, readReg_withMode, readSecond_withMode]
    rfl
  | rrr =>
    refine withRegs3_withMode fun r q p => ?_
    rw [afterReads_withMode, readReg_withMode, readSecond_withMode]
    exact writeResult_withMode _ m r _
  | rr =>
    refine withRegs2_withMode fun r q => ?_
    rw [afterRead_withMode, readReg_withMode]
    exact writeResult_withMode _ m r _
  | rn => exact withReg_withMode fun r => writeResult_withMode s m r _
  | r =>
    refine withReg_withMode fun r => ?_
    rw [afterRead_withMode, readReg_withMode]
    exact writeResult_withMode _ m r _
  | hiLo =>
    refine withRegs2_withMode fun r q => ?_
    rw [afterReads_withMode, readReg_withMode, readSecond_withMode]
    split
    · rfl
    · exact raise_withMode s m _
  | hiLoImm =>
    refine withReg_withMode fun r => ?_
    rw [afterRead_withMode, readReg_withMode]
    split
    · rfl
    · exact raise_withMode s m _
  | mod =>
    refine withRegs3_withMode fun r q p => ?_
    rw [afterReads_withMode, readReg_withMode, readSecond_withMode]
    exact writeModulo_withMode s m _ r _ _
  | modi =>
    refine withRegs2_withMode fun r q => ?_
    rw [afterRead_withMode, readReg_withMode]
    exact writeModulo_withMode s m _ r _ _
  | lb =>
    refine withRegs3_withMode fun r q p => ?_
    simp only [effAddr_withMode, afterReads_withMode, afterRead_withMode, readReg_withMode, inMem_withMode]
    exact memAccess_withMode (writeResult_withMode _ m r _)
  | lw =>
    refine withRegs3_withMode fun r q p => ?_
    simp only [effAddr_withMode, afterReads_withMode, inMem_withMode]
    exact memAccess_withMode (writeResult_withMode _ m r _)
  | sb | sw =>
    refine withRegs3_withMode fun r q p => ?_
    simp only [effAddr_withMode, afterReads_withMode, afterRead_withMode, readReg_withMode, inMem_withMode]
    exact ite_withMode rfl (raise_withMode s m _)
  | push =>
    refine withReg_withMode fun r => ?_
    refine ite_withMode (raise_withMode s m _) ?_
    have hread : readReg { withMode s m with sp := pushSp s } r = readReg { s with sp := pushSp s } r :=
      readReg_withMode { s with sp := pushSp s } m r
    have hafter : afterRead { withMode s m with sp := pushSp s } r =
        withMode (afterRead { s with sp := pushSp s } r) m := afterRead_withMode { s with sp := pushSp s } m r
    simp only [pushSp_withMode]
    rw [hread, hafter]
    exact memAccess_withMode rfl
  | pop =>
    refine withReg_withMode fun r => ?_
    exact memAccess_withMode (ite_withMode (raise_withMode s m _) (popWrites_withMode s m r _))

theorem exec_withMode (i : Instr) (s : State) (m : Mode) : exec i (withMode s m) = outcomeUnder m (exec i s) :=
  (exec_hasForm i).commutes_withMode s m

/-! ### Every step and every run -/

theorem cycle_withMode (s : State) (m : Mode) : cycle (withMode s m) = outcomeUnder m (cycle s) := by
  rw [cycle, cycle]
  refine memAccess_withMode ?_
  rw [fetchWord_withMode, afterFetch_withMode]
  split
  · exact exec_withMode _ _ m
  · exact raise_withMode _ m _

theorem step_withMode (s : State) (m : Mode) : step (withMode s m) = outcomeUnder m (step s) := by
  have hrun : (withMode s m).run = s.run := rfl
  simp only [step, hrun]
  split
  · exact cycle_withMode s m
  · rfl
  · rfl

section
variable {M : Host.Core} {a : M.State} (k : Nat)

theorem run_succ_of_next {u : M.State} (h : M.step a = .next u) : M.run (k + 1) a = M.run k u := by
  rw [Host.Core.run, h]

theorem run_succ_of_fault {f : M.Fault} (h : M.step a = .fault f) : M.run (k + 1) a = .fault f := by
  rw [Host.Core.run, h]

theorem run_succ_of_refused {q : M.Refusal} (h : M.step a = .refused q) : M.run (k + 1) a = .refused q := by
  rw [Host.Core.run, h]

end

theorem run_withMode (s : State) (m : Mode) (k : Nat) :
    Sys2Proof.core.run k (withMode s m) = outcomeUnder m (Sys2Proof.core.run k s) := by
  induction k generalizing s with
  | zero => rfl
  | succ k ih =>
    have hmode := step_withMode s m
    cases hs : step s with
    | next t =>
      rw [hs] at hmode
      rw [run_succ_of_next (M := Sys2Proof.core) k hs, run_succ_of_next (M := Sys2Proof.core) k hmode]
      exact ih t
    | fault f =>
      rw [hs] at hmode
      rw [run_succ_of_fault (M := Sys2Proof.core) k hs, run_succ_of_fault (M := Sys2Proof.core) k hmode]
      rfl
    | refused q =>
      rw [hs] at hmode
      rw [run_succ_of_refused (M := Sys2Proof.core) k hs, run_succ_of_refused (M := Sys2Proof.core) k hmode]
      rfl

/-- Settles O54: a run commutes with the change of mode because each step does. -/
theorem modeChangesNothing : Obligations.ModeChangesNothing :=
  fun s m => ⟨step_withMode s m, run_withMode s m⟩

end Sys2Proof.Machine

/-! PROOFS. Refused SP writes (60_exceptions.md R273, R284). The statement names, for every instruction, the value it
attempts to write to SP; the result statements say that this is the value of a register write, whose SP clause then
gives the refusal. PUSH and POP write SP by themselves and are looked at on their own. -/

namespace Sys2Proof.Machine

open Sys2Proof.Claim

/-! ### The refusal -/

/-- The instruction goes on with SPRange signalled and nothing else changed but the count of STAT draws. -/
def SpRefused (i : Instr) (s : State) : Prop := ∃ n, exec i s = .next ((s.drawn n).signal .spRange)

/-- The instruction ends in a write of `w` to SP, made after some draws of STAT. -/
def SpWrite (i : Instr) (s : State) (w : Word) : Prop :=
  ∃ n dn, WriteOutcome (exec i s) (s.drawn n) dn .sp w

theorem spRefused_of_spWrite {i : Instr} {s : State} {w : Word} (h : SpWrite i s w)
    (hw : s.cfg.maxAddr < w.toNat) : SpRefused i s := by
  obtain ⟨n, dn, -, -, -, -, -, -, -, -, hrefused, -⟩ := h
  exact ⟨n, hrefused rfl hw⟩

/-- ERR is not zero after an error was signalled (60_exceptions.md R271, R284). -/
theorem signal_err_ne_zero (s : State) (k : ErrorKind) : (s.signal k).err ≠ 0 := by
  rw [signal_err]
  intro h
  exact errBits_ne_zero k (BitVec.or_eq_zero_iff.1 h).2

/-! ### The explicit writes -/

section
variable {s : State} {x y z : RegNum} {w : Word} (hx : regOf x = some .sp)

theorem value1_eq_some {f : Word → Word} (h : value1 s y f = some w) :
    ∃ ry, regOf y = some ry ∧ f (readReg s ry) = w := by
  simpa only [value1, Option.map_eq_some_iff] using h

theorem value2_eq_some {f : Word → Word → Word} (h : value2 s y z f = some w) :
    ∃ ry rz, regOf y = some ry ∧ regOf z = some rz ∧ f (readReg s ry) (readSecond s ry rz) = w := by
  unfold value2 at h
  split at h
  next ry rz hy hz => exact ⟨ry, rz, hy, hz, Option.some.inj h⟩
  next => cases h

theorem value2_of_regOf (f : Word → Word → Word) {ry rz : Reg} (hy : regOf y = some ry) (hz : regOf z = some rz) :
    value2 s y z f = some (f (readReg s ry) (readSecond s ry rz)) := by
  rw [value2, hy, hz]

theorem valueAt_eq_some {n : Nat} {f : Nat → Word} (h : valueAt s y z n f = some w) :
    ∃ ry rz, regOf y = some ry ∧ regOf z = some rz ∧ effAddr s ry rz + n ≤ s.cfg.memSize ∧
      f (effAddr s ry rz) = w := by
  unfold valueAt at h
  split at h
  next ry rz hy hz =>
    dsimp only at h
    split at h
    next hm => exact ⟨ry, rz, hy, hz, hm, Option.some.inj h⟩
    next => cases h
  next => cases h

include hx

theorem spWrite_of_writes3 {e : RegNum → RegNum → RegNum → Instr} {f : Word → Word → Word} (he : Writes3 e f)
    (h : value2 s y z f = some w) : SpWrite (e x y z) s w := by
  obtain ⟨ry, rz, hy, hz, rfl⟩ := value2_eq_some h
  obtain ⟨n, hn, -⟩ := afterReads_drawn s ry rz
  exact ⟨n, _, hn ▸ he s x y z .sp ry rz hx hy hz⟩

theorem spWrite_of_writes2 {e : RegNum → RegNum → Instr} {f : Word → Word} (he : Writes2 e f)
    (h : value1 s y f = some w) : SpWrite (e x y) s w := by
  obtain ⟨ry, hy, rfl⟩ := value1_eq_some h
  obtain ⟨n, hn, -⟩ := afterRead_drawn s ry
  exact ⟨n, _, hn ▸ he s x y .sp ry hx hy⟩

theorem spWrite_of_writes1 {e : RegNum → Instr} (he : Writes1 e w) : SpWrite (e x) s w :=
  ⟨s.statReads, s, he s x .sp hx⟩

theorem spWrite_of_writesSelf {e : RegNum → Instr} {f : Word → Word} (he : WritesSelf e f) :
    SpWrite (e x) s (f s.sp) :=
  ⟨s.statReads, s, he s x .sp hx⟩

theorem spWrite_lb (h : explicitSpWrite (.lb x y z) s = some w) : SpWrite (.lb x y z) s w := by
  rw [explicitSpWrite] at h
  obtain ⟨ry, rz, hy, hz, hm, rfl⟩ := valueAt_eq_some h
  obtain ⟨n, hn, -⟩ := afterReads_drawn s ry rz
  obtain ⟨hlb, -⟩ := loadResults s x y z .sp ry rz hx hy hz
  have hwrite := hlb hm
  rw [hn] at hwrite
  exact ⟨n, _, hwrite⟩

theorem spWrite_lw (h : explicitSpWrite (.lw x y z) s = some w) : SpWrite (.lw x y z) s w := by
  rw [explicitSpWrite] at h
  obtain ⟨ry, rz, hy, hz, hm, rfl⟩ := valueAt_eq_some h
  obtain ⟨n, hn, -⟩ := afterReads_drawn s ry rz
  obtain ⟨-, -, hlw, -⟩ := loadResults s x y z .sp ry rz hx hy hz
  have hwrite := hlw hm
  rw [hn] at hwrite
  exact ⟨n, _, hwrite⟩

omit hx in
/-- The remainder of an unsigned division is the one of natural numbers. -/
theorem remainder_eq_of_unsignedQuotient {n d h l : Word} (hq : UnsignedQuotient n d h l) :
    l = BitVec.ofNat 32 (n.toNat % d.toNat) := by
  obtain ⟨hn, hlt⟩ := hq
  rw [hn, Nat.mul_add_mod_self_right, Nat.mod_eq_of_lt hlt, BitVec.ofNat_toNat, BitVec.setWidth_eq]

theorem spWrite_mod (h : explicitSpWrite (.mod x y z) s = some w) : SpWrite (.mod x y z) s w := by
  obtain ⟨hzero, h⟩ := Option.ite_none_left_eq_some.1 h
  obtain ⟨ry, rz, hy, hz, rfl⟩ := value2_eq_some h
  have hd : readSecond s ry rz ≠ 0 := fun e => hzero ((value2_of_regOf _ hy hz).trans (congrArg some e))
  obtain ⟨n, hn, -⟩ := afterReads_drawn s ry rz
  obtain ⟨hmod, -⟩ := moduloResults s x y z 0 .sp ry rz hx hy hz
  obtain ⟨q, l, hq, hwrite⟩ := hmod hd
  rw [hn, remainder_eq_of_unsignedQuotient hq] at hwrite
  exact ⟨n, _, hwrite⟩

theorem spWrite_modi {k : Imm8} (h : explicitSpWrite (.modi x y k) s = some w) : SpWrite (.modi x y k) s w := by
  obtain ⟨hzero, h⟩ := Option.ite_none_left_eq_some.1 h
  obtain ⟨ry, hy, rfl⟩ := value1_eq_some h
  obtain ⟨n, hn, -⟩ := afterRead_drawn s ry
  obtain ⟨-, hmodi⟩ := moduloResults s x y 0 k .sp ry .zero hx hy regOf_zero
  obtain ⟨q, l, hq, hwrite⟩ := hmodi hzero
  rw [hn, remainder_eq_of_unsignedQuotient hq, ← uimm8_eq_ofNat, toNat_uimm8] at hwrite
  exact ⟨n, _, hwrite⟩

end

/-- Every explicit write to SP is the write of the value the statement computes for it. -/
theorem spWrite_of_explicitSpWrite {i : Instr} {s : State} {x : RegNum} {w : Word} (hd : i.destination = some x)
    (hx : regOf x = some .sp) (hw : explicitSpWrite i s = some w) : SpWrite i s w := by
  obtain ⟨hset, hcp, hnoti⟩ := setCopyNotiResults
  obtain ⟨hadd, haddu, haddi, hsub, hsubu, hsubi⟩ := additionSubtractionResults
  obtain ⟨habs, hneg, hinc, hdec⟩ := unaryResults
  obtain ⟨hand, hor, hxor, hnand, hnor, hnot, himm⟩ := bitwiseResults
  obtain ⟨hshl, hshr, hshra, hshiftImm⟩ := shiftResults
  obtain ⟨hrotl, hrotr, hrotImm⟩ := rotateResults
  cases i with
  | nop | eop | sb | sw | push | mul | mulu | muli | div | divu | divi | cmp | cmpu | cmpi | be | bne | bl | ble | bg
  | bge | jmp | go | call | ret | int | inp | out => cases hd
  | pop => cases hw
  | set y n => cases hd; cases hw; exact spWrite_of_writes1 hx (hset n)
  | noti y n => cases hd; cases hw; exact spWrite_of_writes1 hx (hnoti n)
  | inc y => cases hd; cases hw; exact spWrite_of_writesSelf hx hinc
  | dec y => cases hd; cases hw; exact spWrite_of_writesSelf hx hdec
  | lb => cases hd; exact spWrite_lb hx hw
  | lw => cases hd; exact spWrite_lw hx hw
  | mod => cases hd; exact spWrite_mod hx hw
  | modi => cases hd; exact spWrite_modi hx hw
  | cp => cases hd; exact spWrite_of_writes2 hx hcp hw
  | abs => cases hd; exact spWrite_of_writes2 hx habs hw
  | neg => cases hd; exact spWrite_of_writes2 hx hneg hw
  | not => cases hd; exact spWrite_of_writes2 hx hnot hw
  | add => cases hd; exact spWrite_of_writes3 hx hadd hw
  | addu => cases hd; exact spWrite_of_writes3 hx haddu hw
  | sub => cases hd; exact spWrite_of_writes3 hx hsub hw
  | subu => cases hd; exact spWrite_of_writes3 hx hsubu hw
  | and => cases hd; exact spWrite_of_writes3 hx hand hw
  | or => cases hd; exact spWrite_of_writes3 hx hor hw
  | xor => cases hd; exact spWrite_of_writes3 hx hxor hw
  | nand => cases hd; exact spWrite_of_writes3 hx hnand hw
  | nor => cases hd; exact spWrite_of_writes3 hx hnor hw
  | shl => cases hd; exact spWrite_of_writes3 hx hshl hw
  | shr => cases hd; exact spWrite_of_writes3 hx hshr hw
  | shra => cases hd; exact spWrite_of_writes3 hx hshra hw
  | rotl => cases hd; exact spWrite_of_writes3 hx hrotl hw
  | rotr => cases hd; exact spWrite_of_writes3 hx hrotr hw
  | addi _ _ n => cases hd; exact spWrite_of_writes2 hx (haddi n) hw
  | subi _ _ n => cases hd; exact spWrite_of_writes2 hx (hsubi n) hw
  | andi _ _ n =>
    cases hd
    obtain ⟨handi, -⟩ := himm n
    exact spWrite_of_writes2 hx handi hw
  | ori _ _ n =>
    cases hd
    obtain ⟨-, hori, -⟩ := himm n
    exact spWrite_of_writes2 hx hori hw
  | xori _ _ n =>
    cases hd
    obtain ⟨-, -, hxori, -⟩ := himm n
    exact spWrite_of_writes2 hx hxori hw
  | nandi _ _ n =>
    cases hd
    obtain ⟨-, -, -, hnandi, -⟩ := himm n
    exact spWrite_of_writes2 hx hnandi hw
  | nori _ _ n =>
    cases hd
    obtain ⟨-, -, -, -, hnori⟩ := himm n
    exact spWrite_of_writes2 hx hnori hw
  | shli _ _ n =>
    cases hd
    obtain ⟨hshli, -⟩ := hshiftImm n
    exact spWrite_of_writes2 hx hshli hw
  | shri _ _ n =>
    cases hd
    obtain ⟨-, hshri, -⟩ := hshiftImm n
    exact spWrite_of_writes2 hx hshri hw
  | shrai _ _ n =>
    cases hd
    obtain ⟨-, -, hshrai⟩ := hshiftImm n
    exact spWrite_of_writes2 hx hshrai hw
  | rotli _ _ n =>
    cases hd
    obtain ⟨hrotli, -⟩ := hrotImm n
    exact spWrite_of_writes2 hx hrotli hw
  | rotri _ _ n =>
    cases hd
    obtain ⟨-, hrotri⟩ := hrotImm n
    exact spWrite_of_writes2 hx hrotri hw

/-! ### PUSH and POP -/

section
variable {s : State} {x : RegNum} {v : Int}

/-- PUSH is refused where SP less 4 is no valid SP, also in states no run reaches (log entry 15). -/
theorem spRefused_push (hv : v ∈ spWrites (.push x) s) (hrange : v < 0 ∨ (s.cfg.maxAddr : Int) < v) :
    SpRefused (.push x) s := by
  unfold spWrites at hv
  dsimp only at hv
  split at hv
  next hsome =>
    obtain ⟨rx, hx⟩ := Option.isSome_iff_exists.1 hsome
    obtain rfl := List.mem_singleton.1 hv
    have hrefused : s.sp.toNat < 4 ∨ spValid s (pushSp s) = false := by
      rw [spValid_eq_false_iff]
      rcases Nat.lt_or_ge s.sp.toNat 4 with h4 | h4
      · exact .inl h4
      · rw [toNat_pushSp h4]
        omega
    exact ⟨s.statReads, (withReg_some s x _ rx hx).trans (if_pos hrefused)⟩
  next => cases hv

/-- POP is refused where SP plus 4, or for X = SP the loaded word or that plus 4, is no valid SP (log entry 8). -/
theorem spRefused_pop (hlegal : s.cfg.legal = true) (hv : v ∈ spWrites (.pop x) s)
    (hrange : v < 0 ∨ (s.cfg.maxAddr : Int) < v) : SpRefused (.pop x) s := by
  have hmax := maxAddr_add_one hlegal
  unfold spWrites at hv
  dsimp only at hv
  split at hv
  next => cases hv
  next hmem =>
    by_cases hlast : s.sp.toNat + 4 = s.cfg.memSize
    · split at hv
      next => cases hv
      next hx => exact ⟨s.statReads, exec_pop_refused s hx hlegal hlast⟩
      next _ _ hx => exact ⟨s.statReads, exec_pop_refused s hx hlegal hlast⟩
    · split at hv
      next => cases hv
      next hx =>
        have hword : s.cfg.maxAddr < (wordAt s s.sp.toNat).toNat + 4 := by
          simp only [List.mem_cons, List.not_mem_nil, or_false] at hv
          omega
        refine ⟨s.statReads, (exec_pop_writes s hx hlegal (by omega)).trans ?_⟩
        exact popWrites_sp_refused hlegal hword
      next =>
        obtain rfl := List.mem_singleton.1 hv
        omega

/-- What an instruction other than PUSH and POP attempts to write to SP is its explicit write. -/
theorem spRefused_explicit {i : Instr} (hpush : ∀ x, i ≠ .push x) (hpop : ∀ x, i ≠ .pop x) (hv : v ∈ spWrites i s)
    (hrange : v < 0 ∨ (s.cfg.maxAddr : Int) < v) : SpRefused i s := by
  unfold spWrites at hv
  split at hv
  next x => exact absurd rfl (hpush x)
  next x => exact absurd rfl (hpop x)
  next =>
    split at hv
    next hsp =>
      obtain ⟨x, hd, hx⟩ := Option.bind_eq_some_iff.1 hsp
      obtain ⟨w, hw, rfl⟩ := List.mem_map.1 hv
      have hmax : s.cfg.maxAddr < w.toNat := by omega
      exact spRefused_of_spWrite (spWrite_of_explicitSpWrite hd hx (Option.mem_toList.1 hw)) hmax
    next => cases hv

end

/-- Settles O52: whichever write is out of range, the instruction ends refused, and an error's bits are not all zero. -/
theorem refusedSpWriteIsObservable : Obligations.RefusedSpWriteIsObservable := by
  intro i s v hlegal hv hrange
  have hrefused : SpRefused i s := by
    cases i with
    | push x => exact spRefused_push hv hrange
    | pop x => exact spRefused_pop hlegal hv hrange
    | _ => exact spRefused_explicit nofun nofun hv hrange
  obtain ⟨n, hexec⟩ := hrefused
  exact ⟨n, _, hexec, rfl, rfl, signal_err_ne_zero (s.drawn n) .spRange⟩

end Sys2Proof.Machine
